-- ==== Sys2Proof/Word.lean ====
section
/-! DEFINITION. The bit-vector types of the machine (spec/00_scope.md R8, R9): bytes, 16-bit words, and the
4-bit and 12-bit fields of an instruction word. Every value is an unsigned integer of its width. -/

namespace Sys2Proof

/-- An 8-bit unsigned value: a general register, a timer, one byte of memory (R20, R32, R33, R35). -/
abbrev Byte := BitVec 8

/-- A 16-bit unsigned value: an instruction word, PC, I, a stack entry (R25, R30, R34, R90). -/
abbrev Word := BitVec 16

/-- A 4-bit field: X, Y or N of an instruction word (R92), and a key index 0..15 (R37). -/
abbrev Nibble := BitVec 4

/-- The 12-bit address field NNN of an instruction word (R92). -/
abbrev Addr := BitVec 12

theorem Nibble.lt_sixteen (x : Nibble) : x.toNat < 16 := x.isLt

end Sys2Proof
end

