-- ==== Sys2Proof/Config.lean ====
section
/-! DEFINITION. The fixed parameters of spec/00_scope.md R6 that are not already in a type, and the open
parameters of R7 as free values: RAND (decision D11) and KEY_PICK (decision D9). A free value is an opaque
constant without a body: no proof can know its value, so what is proved holds whatever it is. -/

namespace Sys2Proof.Config

/-- MEM_SIZE: addresses 0..4095 (R6, R35). -/
abbrev memSize : Nat := 4096

/-- PROG_BASE: the reset value of PC and the load address (R6). -/
abbrev progBase : Word := 0x200#16

/-- ROM_MAX: the largest ROM in bytes, 4096 - 0x200 (R6, R261). -/
abbrev romMax : Nat := 3584

/-- The open parameter RAND (R7, R154, decision D11): the byte of the n-th draw. Free value, log entry 1. -/
opaque randByte : Nat → Byte

/-- The open parameter KEY_PICK (R7, R205, decision D9): which of several pressed keys the n-th draw takes,
counted modulo the number of pressed keys. Free value, log entry 2. -/
opaque keyPick : Nat → Nat

end Sys2Proof.Config
end

