-- ==== Sys2Proof/Syntax.lean ====
section
/-! DEFINITION. The 34 instructions of spec/30_encoding.md R95, one constructor per row of
spec/opcode_table.json, in the table's order. Operands are the fields of R92, typed by their widths. There are no other
operand forms (R93), no pseudo-instructions (R105) and no other lengths (R90, R103). -/

namespace Sys2Proof

/-- One instruction. `x`, `y` name general registers, `n` is the row count of DRW, `nn` an 8-bit immediate,
`nnn` a 12-bit address. SHR and SHL keep the Y field, which is decoded but not used (R97). -/
inductive Instr where
  /-- 00E0, R190 -/
  | cls
  /-- 00EE, R121 -/
  | ret
  /-- 1NNN, R122 -/
  | jp (nnn : Addr)
  /-- 2NNN, R123 -/
  | call (nnn : Addr)
  /-- 3XNN, R125 -/
  | seImm (x : Nibble) (nn : Byte)
  /-- 4XNN, R126 -/
  | sneImm (x : Nibble) (nn : Byte)
  /-- 5XY0, R127 -/
  | seReg (x y : Nibble)
  /-- 6XNN, R143 -/
  | ldImm (x : Nibble) (nn : Byte)
  /-- 7XNN, R144 -/
  | addImm (x : Nibble) (nn : Byte)
  /-- 8XY0, R145 -/
  | ldReg (x y : Nibble)
  /-- 8XY1, R146 -/
  | orReg (x y : Nibble)
  /-- 8XY2, R147 -/
  | andReg (x y : Nibble)
  /-- 8XY3, R148 -/
  | xorReg (x y : Nibble)
  /-- 8XY4, R149 -/
  | addReg (x y : Nibble)
  /-- 8XY5, R150 -/
  | subReg (x y : Nibble)
  /-- 8XY6, R151 -/
  | shr (x y : Nibble)
  /-- 8XY7, R152 -/
  | subn (x y : Nibble)
  /-- 8XYE, R153 -/
  | shl (x y : Nibble)
  /-- 9XY0, R128 -/
  | sneReg (x y : Nibble)
  /-- ANNN, R170 -/
  | ldI (nnn : Addr)
  /-- BNNN, R124 -/
  | jpV0 (nnn : Addr)
  /-- CXNN, R154 -/
  | rnd (x : Nibble) (nn : Byte)
  /-- DXYN, R191 -/
  | drw (x y n : Nibble)
  /-- EX9E, R203 -/
  | skp (x : Nibble)
  /-- EXA1, R204 -/
  | sknp (x : Nibble)
  /-- FX07, R200 -/
  | ldVxDt (x : Nibble)
  /-- FX0A, R205 -/
  | ldVxKey (x : Nibble)
  /-- FX15, R201 -/
  | ldDtVx (x : Nibble)
  /-- FX18, R202 -/
  | ldStVx (x : Nibble)
  /-- FX1E, R171 -/
  | addI (x : Nibble)
  /-- FX29, R172 -/
  | ldFont (x : Nibble)
  /-- FX33, R173 -/
  | ldBcd (x : Nibble)
  /-- FX55, R174 -/
  | storeRegs (x : Nibble)
  /-- FX65, R175 -/
  | loadRegs (x : Nibble)
  deriving DecidableEq, Repr

/-- A row of the opcode map R95: a word `op` is the row's instruction iff `op &&& mask = value` (the column
the table calls "match"). `mnemonic` is the spelling of spec/opcode_table.json. -/
structure OpcodeRow where
  mnemonic : String
  mask     : Word
  value    : Word
  deriving DecidableEq, Repr

end Sys2Proof
end

