-- ==== Sys2Proof/WellFormed.lean ====
section
/-! DEFINITION. What makes an instruction, and the data a host hands to the machine, well-formed. -/

namespace Sys2Proof

/-- Every operand is in the range of its field (R92, R93): registers 0..15, N 0..15, NN 0..255, NNN 0..4095.
The operand types already carry these bounds, so the check refuses no term of `Instr`
(`Instr.wellFormed_all`); it is spelled out so that the ranges can be read off. -/
def Instr.wellFormed : Instr → Bool
  | .cls | .ret => true
  | .jp nnn | .call nnn | .ldI nnn | .jpV0 nnn => decide (nnn.toNat ≤ 4095)
  | .seImm x nn | .sneImm x nn | .ldImm x nn | .addImm x nn | .rnd x nn =>
    decide (x.toNat ≤ 15) && decide (nn.toNat ≤ 255)
  | .seReg x y | .sneReg x y | .ldReg x y | .orReg x y | .andReg x y | .xorReg x y | .addReg x y
  | .subReg x y | .shr x y | .subn x y | .shl x y => decide (x.toNat ≤ 15) && decide (y.toNat ≤ 15)
  | .drw x y n => decide (x.toNat ≤ 15) && decide (y.toNat ≤ 15) && decide (n.toNat ≤ 15)
  | .skp x | .sknp x | .ldVxDt x | .ldVxKey x | .ldDtVx x | .ldStVx x | .addI x | .ldFont x | .ldBcd x
  | .storeRegs x | .loadRegs x => decide (x.toNat ≤ 15)

theorem Instr.wellFormed_all (i : Instr) : i.wellFormed = true := by
  cases i <;> simp [Instr.wellFormed] <;> omega

/-- A ROM that LoadProgram accepts: at most 3584 bytes (R261, R227). -/
def romFits (bytes : List Byte) : Bool := decide (bytes.length ≤ Config.romMax)

end Sys2Proof
end

