-- ==== Sys2Proof/Decode.lean ====
section
/-! DEFINITION. Decoding (spec/30_encoding.md R90 to R95, R97, R101), total on all words and byte lists, and
the encoder written from the same table. The patterns R96 does not list come from the spec's own table, which marks
them as general knowledge (decision D25). The strict tests of 00E0, 00EE, 5XY0, 9XY0 are decision D6. -/

namespace Sys2Proof

/-- Why bytes do not decode. -/
inductive DecodeError where
  /-- The word matches no row of R95 (R101); the step then warns and goes on. -/
  | unknownOpcode (op : Word)
  /-- Fewer than two bytes: no instruction word is there (R90). -/
  | truncated
  deriving DecidableEq, Repr

/-! ## Fields (R92) and byte order (R62) -/

/-- `op[15:12]`, the primary opcode (R91). -/
def fieldOp (op : Word) : Nibble := op.extractLsb' 12 4
/-- X = `op[11:8]`. -/
def fieldX (op : Word) : Nibble := op.extractLsb' 8 4
/-- Y = `op[7:4]`. -/
def fieldY (op : Word) : Nibble := op.extractLsb' 4 4
/-- N = `op[3:0]`. -/
def fieldN (op : Word) : Nibble := op.extractLsb' 0 4
/-- NN = `op[7:0]`. -/
def fieldNN (op : Word) : Byte := op.extractLsb' 0 8
/-- NNN = `op[11:0]`. -/
def fieldNNN (op : Word) : Addr := op.extractLsb' 0 12

/-- Big-endian: the byte at the lower address is the high byte of the word (R62). -/
def wordOfBytes (hi lo : Byte) : Word := hi ++ lo
/-- The byte of a word that stands at the lower address (R62). -/
def highByte (op : Word) : Byte := op.extractLsb' 8 8
/-- The byte of a word that stands at the higher address (R62). -/
def lowByte (op : Word) : Byte := op.extractLsb' 0 8

/-! ## Decode (R94) -/

/-- The words with high nibble 0: only 00E0 and 00EE, on all 16 bits. -/
def decodeZero (op : Word) : Except DecodeError Instr :=
  if op = 0x00E0#16 then .ok .cls
  else if op = 0x00EE#16 then .ok .ret
  else .error (.unknownOpcode op)

/-- The words with high nibble 8, by their low nibble. -/
def decodeEight (op : Word) : Except DecodeError Instr :=
  match fieldN op with
  | 0x0#4 => .ok (.ldReg (fieldX op) (fieldY op))
  | 0x1#4 => .ok (.orReg (fieldX op) (fieldY op))
  | 0x2#4 => .ok (.andReg (fieldX op) (fieldY op))
  | 0x3#4 => .ok (.xorReg (fieldX op) (fieldY op))
  | 0x4#4 => .ok (.addReg (fieldX op) (fieldY op))
  | 0x5#4 => .ok (.subReg (fieldX op) (fieldY op))
  | 0x6#4 => .ok (.shr (fieldX op) (fieldY op))
  | 0x7#4 => .ok (.subn (fieldX op) (fieldY op))
  | 0xE#4 => .ok (.shl (fieldX op) (fieldY op))
  | _ => .error (.unknownOpcode op)

/-- The words with high nibble E, by their low byte. -/
def decodeE (op : Word) : Except DecodeError Instr :=
  match fieldNN op with
  | 0x9E#8 => .ok (.skp (fieldX op))
  | 0xA1#8 => .ok (.sknp (fieldX op))
  | _ => .error (.unknownOpcode op)

/-- The words with high nibble F, by their low byte. -/
def decodeF (op : Word) : Except DecodeError Instr :=
  match fieldNN op with
  | 0x07#8 => .ok (.ldVxDt (fieldX op))
  | 0x0A#8 => .ok (.ldVxKey (fieldX op))
  | 0x15#8 => .ok (.ldDtVx (fieldX op))
  | 0x18#8 => .ok (.ldStVx (fieldX op))
  | 0x1E#8 => .ok (.addI (fieldX op))
  | 0x29#8 => .ok (.ldFont (fieldX op))
  | 0x33#8 => .ok (.ldBcd (fieldX op))
  | 0x55#8 => .ok (.storeRegs (fieldX op))
  | 0x65#8 => .ok (.loadRegs (fieldX op))
  | _ => .error (.unknownOpcode op)

/-- Decode(op) of R94: dispatch on the high nibble, then on sub-nibbles; every other word is unknown (R101). -/
def decode (op : Word) : Except DecodeError Instr :=
  match fieldOp op with
  | 0x0#4 => decodeZero op
  | 0x1#4 => .ok (.jp (fieldNNN op))
  | 0x2#4 => .ok (.call (fieldNNN op))
  | 0x3#4 => .ok (.seImm (fieldX op) (fieldNN op))
  | 0x4#4 => .ok (.sneImm (fieldX op) (fieldNN op))
  | 0x5#4 => if fieldN op = 0 then .ok (.seReg (fieldX op) (fieldY op)) else .error (.unknownOpcode op)
  | 0x6#4 => .ok (.ldImm (fieldX op) (fieldNN op))
  | 0x7#4 => .ok (.addImm (fieldX op) (fieldNN op))
  | 0x8#4 => decodeEight op
  | 0x9#4 => if fieldN op = 0 then .ok (.sneReg (fieldX op) (fieldY op)) else .error (.unknownOpcode op)
  | 0xA#4 => .ok (.ldI (fieldNNN op))
  | 0xB#4 => .ok (.jpV0 (fieldNNN op))
  | 0xC#4 => .ok (.rnd (fieldX op) (fieldNN op))
  | 0xD#4 => .ok (.drw (fieldX op) (fieldY op) (fieldN op))
  | 0xE#4 => decodeE op
  | _ => decodeF op

/-- The first instruction of a byte list and the bytes after it; always two bytes (R90, R62). -/
def decodeBytes : List Byte → Except DecodeError (Instr × List Byte)
  | hi :: lo :: rest =>
    match decode (wordOfBytes hi lo) with
    | .ok i => .ok (i, rest)
    | .error e => .error e
  | _ => .error .truncated

/-- The word whose bits, numbered as spec/opcode_table.json numbers them, are the low `nbits` bits of `w`:
every instruction is one 16-bit word, so bit 0 of the table is bit 0 of the word (R8, R90). -/
def tableWord (nbits w : Nat) : Word := BitVec.ofNat 16 (w % 2 ^ nbits)

/-- What the decoder reads from the bytes of a table word, laid out big-endian. -/
def decodeTableWord (nbits w : Nat) : Option Instr :=
  match decodeBytes [highByte (tableWord nbits w), lowByte (tableWord nbits w)] with
  | .ok (i, _) => some i
  | .error _ => none

/-! ## Encode (R91, R95) -/

/-- Format A: opcode, NNN. -/
def packA (op : Nibble) (nnn : Addr) : Word := (op ++ nnn : BitVec (4 + 12))
/-- Formats XI and XF: opcode, X, and NN or the function byte. -/
def packXI (op x : Nibble) (nn : Byte) : Word := ((op ++ x : BitVec (4 + 4)) ++ nn : BitVec (8 + 8))
/-- Format XY: opcode, X, Y, and the function nibble or N. -/
def packXY (op x y n : Nibble) : Word := packXI op x (y ++ n : BitVec (4 + 4))


/-- The word of an instruction, its fields in the places R91 gives them. -/
def encode : Instr → Word
  | .cls => 0x00E0#16
  | .ret => 0x00EE#16
  | .jp nnn => packA 0x1#4 nnn
  | .call nnn => packA 0x2#4 nnn
  | .seImm x nn => packXI 0x3#4 x nn
  | .sneImm x nn => packXI 0x4#4 x nn
  | .seReg x y => packXY 0x5#4 x y 0x0#4
  | .ldImm x nn => packXI 0x6#4 x nn
  | .addImm x nn => packXI 0x7#4 x nn
  | .ldReg x y => packXY 0x8#4 x y 0x0#4
  | .orReg x y => packXY 0x8#4 x y 0x1#4
  | .andReg x y => packXY 0x8#4 x y 0x2#4
  | .xorReg x y => packXY 0x8#4 x y 0x3#4
  | .addReg x y => packXY 0x8#4 x y 0x4#4
  | .subReg x y => packXY 0x8#4 x y 0x5#4
  | .shr x y => packXY 0x8#4 x y 0x6#4
  | .subn x y => packXY 0x8#4 x y 0x7#4
  | .shl x y => packXY 0x8#4 x y 0xE#4
  | .sneReg x y => packXY 0x9#4 x y 0x0#4
  | .ldI nnn => packA 0xA#4 nnn
  | .jpV0 nnn => packA 0xB#4 nnn
  | .rnd x nn => packXI 0xC#4 x nn
  | .drw x y n => packXY 0xD#4 x y n
  | .skp x => packXI 0xE#4 x 0x9E#8
  | .sknp x => packXI 0xE#4 x 0xA1#8
  | .ldVxDt x => packXI 0xF#4 x 0x07#8
  | .ldVxKey x => packXI 0xF#4 x 0x0A#8
  | .ldDtVx x => packXI 0xF#4 x 0x15#8
  | .ldStVx x => packXI 0xF#4 x 0x18#8
  | .addI x => packXI 0xF#4 x 0x1E#8
  | .ldFont x => packXI 0xF#4 x 0x29#8
  | .ldBcd x => packXI 0xF#4 x 0x33#8
  | .storeRegs x => packXI 0xF#4 x 0x55#8
  | .loadRegs x => packXI 0xF#4 x 0x65#8

/-! ## The opcode map (R95) -/

/-- The row of R95 an instruction belongs to. -/
def Instr.row : Instr → OpcodeRow
  | .cls => ⟨"CLS", 0xFFFF#16, 0x00E0#16⟩
  | .ret => ⟨"RET", 0xFFFF#16, 0x00EE#16⟩
  | .jp _ => ⟨"JP_NNN", 0xF000#16, 0x1000#16⟩
  | .call _ => ⟨"CALL_NNN", 0xF000#16, 0x2000#16⟩
  | .seImm _ _ => ⟨"SE_Vx__NN", 0xF000#16, 0x3000#16⟩
  | .sneImm _ _ => ⟨"SNE_Vx__NN", 0xF000#16, 0x4000#16⟩
  | .seReg _ _ => ⟨"SE_Vx__Vy", 0xF00F#16, 0x5000#16⟩
  | .ldImm _ _ => ⟨"LD_Vx__NN", 0xF000#16, 0x6000#16⟩
  | .addImm _ _ => ⟨"ADD_Vx__NN", 0xF000#16, 0x7000#16⟩
  | .ldReg _ _ => ⟨"LD_Vx__Vy", 0xF00F#16, 0x8000#16⟩
  | .orReg _ _ => ⟨"OR_Vx__Vy", 0xF00F#16, 0x8001#16⟩
  | .andReg _ _ => ⟨"AND_Vx__Vy", 0xF00F#16, 0x8002#16⟩
  | .xorReg _ _ => ⟨"XOR_Vx__Vy", 0xF00F#16, 0x8003#16⟩
  | .addReg _ _ => ⟨"ADD_Vx__Vy", 0xF00F#16, 0x8004#16⟩
  | .subReg _ _ => ⟨"SUB_Vx__Vy", 0xF00F#16, 0x8005#16⟩
  | .shr _ _ => ⟨"SHR_Vx", 0xF00F#16, 0x8006#16⟩
  | .subn _ _ => ⟨"SUBN_Vx__Vy", 0xF00F#16, 0x8007#16⟩
  | .shl _ _ => ⟨"SHL_Vx", 0xF00F#16, 0x800E#16⟩
  | .sneReg _ _ => ⟨"SNE_Vx__Vy", 0xF00F#16, 0x9000#16⟩
  | .ldI _ => ⟨"LD_I__NNN", 0xF000#16, 0xA000#16⟩
  | .jpV0 _ => ⟨"JP_V0__NNN", 0xF000#16, 0xB000#16⟩
  | .rnd _ _ => ⟨"RND_Vx__NN", 0xF000#16, 0xC000#16⟩
  | .drw _ _ _ => ⟨"DRW_Vx__Vy__N", 0xF000#16, 0xD000#16⟩
  | .skp _ => ⟨"SKP_Vx", 0xF0FF#16, 0xE09E#16⟩
  | .sknp _ => ⟨"SKNP_Vx", 0xF0FF#16, 0xE0A1#16⟩
  | .ldVxDt _ => ⟨"LD_Vx__DT", 0xF0FF#16, 0xF007#16⟩
  | .ldVxKey _ => ⟨"LD_Vx__K", 0xF0FF#16, 0xF00A#16⟩
  | .ldDtVx _ => ⟨"LD_DT__Vx", 0xF0FF#16, 0xF015#16⟩
  | .ldStVx _ => ⟨"LD_ST__Vx", 0xF0FF#16, 0xF018#16⟩
  | .addI _ => ⟨"ADD_I__Vx", 0xF0FF#16, 0xF01E#16⟩
  | .ldFont _ => ⟨"LD_F__Vx", 0xF0FF#16, 0xF029#16⟩
  | .ldBcd _ => ⟨"LD_B__Vx", 0xF0FF#16, 0xF033#16⟩
  | .storeRegs _ => ⟨"LD__I___Vx", 0xF0FF#16, 0xF055#16⟩
  | .loadRegs _ => ⟨"LD_Vx___I", 0xF0FF#16, 0xF065#16⟩

/-- One instruction per row of R95, in the table's order. -/
def rowInstrs : List Instr :=
  [.cls, .ret, .jp 0, .call 0, .seImm 0 0, .sneImm 0 0, .seReg 0 0, .ldImm 0 0, .addImm 0 0,
   .ldReg 0 0, .orReg 0 0, .andReg 0 0, .xorReg 0 0, .addReg 0 0, .subReg 0 0, .shr 0 0, .subn 0 0, .shl 0 0,
   .sneReg 0 0, .ldI 0, .jpV0 0, .rnd 0 0, .drw 0 0 0, .skp 0, .sknp 0,
   .ldVxDt 0, .ldVxKey 0, .ldDtVx 0, .ldStVx 0, .addI 0, .ldFont 0, .ldBcd 0, .storeRegs 0, .loadRegs 0]

/-- The 34 rows of R95. -/
def opcodeTable : List OpcodeRow := rowInstrs.map Instr.row

/-- A word is the row's instruction (R95). -/
def OpcodeRow.accepts (r : OpcodeRow) (op : Word) : Bool := op &&& r.mask == r.value

end Sys2Proof
end

