-- ==== Sys2Proof/Machine/State.lean ====
section
/-! DEFINITION. The whole state of the machine (spec/10_state.md R20 to R44), as plain data, with the state after
reset (R41). Four fields at the end are the model's own and not the spec's: the counter behind the free values, the
agenda (the open schedule of R72), the load window of R261 and the last answer to a host action (R244). -/

namespace Sys2Proof.Machine

/-- Main memory (R35): the bytes that differ from what an unlisted address reads as (`unlistedByte`), by strictly
rising address. `Memory.wf` in Machine/Ops.lean states the form. -/
abbrev Memory := List Host.Cell

/-- The display (R36): `Disp[x][y]`, column x in 0..63, row y in 0..31, true = set. -/
abbrev Display := Vector (Vector Bool 32) 64

/-- The FONT parameter of Init: 80 bytes (R7, R68, R260). -/
abbrev Font := Vector Byte 80

/-- The four fatal conditions by name (R220, R225). -/
inductive FatalName where
  | programCounterOutOfBounds | stackOverflow | stackUnderflow | memoryOutOfBounds
  deriving DecidableEq, Repr

/-- A fatal condition with the value R222 to R225 record. -/
inductive Fatal where
  /-- The PC that could not be fetched (R222). -/
  | programCounterOutOfBounds (pc : Word)
  /-- The address of the call (R223). -/
  | stackOverflow (addr : Word)
  /-- The address of the return (R224). -/
  | stackUnderflow (addr : Word)
  /-- I and the byte count (R225). -/
  | memoryOutOfBounds (base : Word) (count : Nat)
  deriving DecidableEq, Repr

def Fatal.name : Fatal → FatalName
  | .programCounterOutOfBounds _ => .programCounterOutOfBounds
  | .stackOverflow _ => .stackOverflow
  | .stackUnderflow _ => .stackUnderflow
  | .memoryOutOfBounds _ _ => .memoryOutOfBounds

/-- The closed taxonomy of R220 and R231: the fatal conditions, the warning, and the load-time errors. RomReadFailure is the
host's own, before any byte reaches the machine (R227), and nothing in the model raises it. -/
inductive Condition where
  | fatal (f : FatalName)
  | unknownOpcode
  | romTooLarge
  | romReadFailure
  deriving DecidableEq, Repr

/-- The codes of R231, for enumeration only (decision D16; no rule depends on the numbers). -/
def Condition.code : Condition → Nat
  | .fatal .programCounterOutOfBounds => 1
  | .fatal .stackOverflow => 2
  | .fatal .stackUnderflow => 3
  | .fatal .memoryOutOfBounds => 4
  | .unknownOpcode => 5
  | .romTooLarge => 6
  | .romReadFailure => 7

/-- An element of the event trace (R39): a signal the machine has sent to the host. -/
inductive Event where
  /-- The TimerService starts the tone (R242). -/
  | audioStart
  /-- The TimerService stops the tone (R242). -/
  | audioStop
  /-- A fetched word that is no instruction, and the address it was fetched from (R101, R226). -/
  | warnUnknownOpcode (op addr : Word)
  /-- A fatal condition surfaced to the host (R228). -/
  | fault (f : Fatal)
  deriving DecidableEq, Repr

/-- The condition an event reports, if it reports one (R231). -/
def Event.condition : Event → Option Condition
  | .audioStart | .audioStop => none
  | .warnUnknownOpcode _ _ => some .unknownOpcode
  | .fault f => some (.fatal f.name)

/-- RUN (R40): the run state of the Executor. -/
inductive RunState where
  | running
  | halted (f : FatalName)
  | stopped
  deriving DecidableEq, Repr

/-- An atomic action of R72 by one of the agents of R12: the Executor's step, the TimerService's tick, and the host's
actions (R244). -/
inductive Action where
  /-- One instruction cycle of the Executor (R98). -/
  | step
  /-- One tick of the TimerService (R241, R242). -/
  | tick
  /-- The host resets the machine with a font (R260). -/
  | init (font : Font)
  /-- The host hands a ROM to the machine (R261). -/
  | loadProgram (bytes : List Byte)
  /-- The host starts the TimerService (R262). -/
  | startTimer
  /-- The host presses (true) or releases (false) a key (R245). -/
  | setKey (k : Nibble) (pressed : Bool)
  /-- The host reads the display (R246). -/
  | readDisplay
  /-- The host shuts the machine down (R263). -/
  | shutdown
  deriving DecidableEq, Repr

/-- What a host action answers to the host (R246, R261, R227). -/
inductive Reply where
  /-- ReadDisplay: the whole display as left by the last completed action (R246). -/
  | display (d : Display)
  /-- LoadProgram succeeded (R261). -/
  | loaded
  /-- LoadProgram failed with RomTooLarge (R227, code 6 of R231); the machine is unchanged. -/
  | romTooLarge
  deriving DecidableEq, Repr

/-- The state of the machine (R43: nothing else is state), and the model's own fields. -/
structure State where
  /-- V0..VF (R20); VF is also the flag (R21, R24). -/
  v        : Vector Byte 16
  /-- The index register I (R30). -/
  i        : Word
  /-- The program counter (R25). -/
  pc       : Word
  /-- SP, the number of return addresses on the stack, 0..16 (R31). -/
  sp       : Fin 17
  /-- The call stack (R34). -/
  stack    : Vector Word 16
  /-- The delay timer DT (R32). -/
  dt       : Byte
  /-- The sound timer ST (R33). -/
  st       : Byte
  /-- Main memory (R35). -/
  mem      : Memory
  /-- The display buffer (R36). -/
  disp     : Display
  /-- The key state, true = pressed (R37). -/
  keys     : Vector Bool 16
  /-- The TimerService's latch TONE (R38). -/
  tone     : Bool
  /-- RUN (R40). -/
  run      : RunState
  /-- TIMER_ON (R40). -/
  timerOn  : Bool
  /-- The event trace, oldest first (R39). -/
  trace    : List Event
  /-- MODEL'S OWN (DESIGN CHOICE): how many free values have been drawn (R42, log entries 1 and 2). -/
  draws    : Nat
  /-- MODEL'S OWN (DESIGN CHOICE): the actions that come next, first to come first (R72, R273, log entry 3). When it is empty the
  Executor has the next action. -/
  agenda   : List Action
  /-- MODEL'S OWN (DESIGN CHOICE): true from an Init until the first Step after it, when LoadProgram is legal (R261, log entry 4). -/
  loadTime : Bool
  /-- MODEL'S OWN (DESIGN CHOICE): the answer of the last host action that answers something (R244, log entry 5). -/
  reply    : Option Reply
  deriving DecidableEq, Repr

/-- Why a step is not possible: the agent whose turn it is has no transition in this state. No instruction
raises one: the machine's own fatal conditions are next states with RUN = Halted (R228). -/
inductive Fault where
  /-- The Executor's turn with RUN = Halted: "the Executor has no step" (R228, R229). Raised by `executorStep`.
  Safe: the spec gives no transition. -/
  | executorHalted (f : FatalName)
  /-- The Executor's turn with RUN = Stopped (R263). Raised by `executorStep`. Safe: the spec gives no transition. -/
  | executorStopped
  /-- A tick with TIMER_ON false (R240, R262). Raised by `perform`. Safe: the spec gives no transition. -/
  | timerNotRunning
  deriving DecidableEq, Repr

/-- What the model refuses, by name. -/
inductive Refusal where
  /-- An instruction without a meaning. Raised by an arm of `exec` only; no arm does. Safe. -/
  | notModelled (mnemonic : String)
  /-- LoadProgram after the first Step that follows Init: "the model refuses the action (it has no transition)"
  (decision D22, R261). Raised by `perform`. Safe. -/
  | loadOutsideLoadTime
  deriving DecidableEq, Repr

/-- The machine right after reset: Init with the default font (R41, R260). Memory lists nothing: what an unlisted
address reads as is the reset contents. The agenda is empty: nothing has been scheduled. -/
def State.reset : State where
  v := Vector.replicate 16 0
  i := 0
  pc := Config.progBase
  sp := 0
  stack := Vector.replicate 16 0
  dt := 0
  st := 0
  mem := []
  disp := Vector.replicate 64 (Vector.replicate 32 false)
  keys := Vector.replicate 16 false
  tone := false
  run := .running
  timerOn := false
  trace := []
  draws := 0
  agenda := []
  loadTime := true
  reply := none

end Sys2Proof.Machine
end

