-- ==== Sys2Proof/Machine/Ops.lean ====
section
/-! DEFINITION. The named operations over memory, registers, stack, PC and event trace: the font and the reset
contents of memory (spec/20_memory.md R67, R68), byte access (R61, R71), the range check (R66), the fetch (R63),
raising a fatal condition (spec/60_exceptions.md R228) and the unknown-opcode warning (R101). There is no return
from a fatal condition (R229), so no operation for one. -/

namespace Sys2Proof.Machine

/-! ## Memory -/

/-- The default font (R68, decision D19): the customary glyphs 0..F, five rows each. -/
def defaultFont : Font :=
  #v[0xF0, 0x90, 0x90, 0x90, 0xF0,  0x20, 0x60, 0x20, 0x20, 0x70,  0xF0, 0x10, 0xF0, 0x80, 0xF0,
     0xF0, 0x10, 0xF0, 0x10, 0xF0,  0x90, 0x90, 0xF0, 0x10, 0x10,  0xF0, 0x80, 0xF0, 0x10, 0xF0,
     0xF0, 0x80, 0xF0, 0x90, 0xF0,  0xF0, 0x10, 0x20, 0x40, 0x40,  0xF0, 0x90, 0xF0, 0x90, 0xF0,
     0xF0, 0x90, 0xF0, 0x10, 0xF0,  0xF0, 0x90, 0xF0, 0x90, 0x90,  0xE0, 0x90, 0xE0, 0x90, 0xE0,
     0xF0, 0x80, 0x80, 0x80, 0xF0,  0xE0, 0x90, 0x90, 0x90, 0xE0,  0xF0, 0x80, 0xF0, 0x80, 0xF0,
     0xF0, 0x80, 0xF0, 0x80, 0x80]

/-- What an address that memory does not list reads as: the reset contents, FONT at 0x000..0x04F and 0 elsewhere
(R35, R67, log entry 6). -/
def unlistedByte (a : Nat) : Byte := defaultFont.toList.getD a 0

/-- The canonical form of memory: addresses strictly rising and inside 0..4095, no byte equal to what its address
reads as unlisted. -/
abbrev Memory.wf (m : Memory) : Prop :=
  m.Pairwise (fun c d => c.1 < d.1) ∧ ∀ c ∈ m, c.1 < Config.memSize ∧ c.2 ≠ unlistedByte c.1

/-- The byte at an address. -/
def Memory.read : Memory → Nat → Byte
  | [], a => unlistedByte a
  | (k, b) :: rest, a => if a = k then b else Memory.read rest a

/-- A cell in front of a memory, dropped where it says what the address reads as unlisted. -/
def Memory.cons (a : Nat) (b : Byte) (m : Memory) : Memory := if b = unlistedByte a then m else (a, b) :: m

/-- Memory with one byte written, in canonical form again. -/
def Memory.write : Memory → Nat → Byte → Memory
  | [], a, b => Memory.cons a b []
  | (k, c) :: rest, a, b =>
    if a < k then Memory.cons a b ((k, c) :: rest)
    else if a = k then Memory.cons a b rest
    else (k, c) :: Memory.write rest a b

/-- MemRead(a, 1) (R10, R61): the byte at address a. Reading changes nothing (R71). -/
def State.readByte (s : State) (a : Nat) : Byte := s.mem.read a

/-- MemWrite(a, 1, b) (R10, R61, R71). Only addresses 0..4095 exist; every instruction checks its range first (R66),
so the guard only says that no cell above 4095 can come to be. -/
def State.writeByte (s : State) (a : Nat) (b : Byte) : State :=
  if a < Config.memSize then { s with mem := s.mem.write a b } else s

/-- Bytes at consecutive ascending addresses, read from `a` (R61, R65). -/
def State.readBytes (s : State) (a : Nat) : Nat → List Byte
  | 0 => []
  | n + 1 => s.readByte a :: s.readBytes (a + 1) n

/-- Bytes written at consecutive ascending addresses from `a` (R61, R65). -/
def State.writeBytes (s : State) (a : Nat) : List Byte → State
  | [] => s
  | b :: rest => (s.writeByte a b).writeBytes (a + 1) rest

/-! ## Registers, PC and stack -/

/-- `V[x]` (R20). -/
def State.getV (s : State) (x : Nibble) : Byte := s.v[x.toNat]'x.isLt

/-- `V[x] <- b` (R20). -/
def State.setV (s : State) (x : Nibble) (b : Byte) : State := { s with v := s.v.set x.toNat b x.isLt }

/-- `V[k], V[k+1], ... <- bytes` in ascending order (R175). -/
def State.setVs (s : State) (k : Nat) : List Byte → State
  | [] => s
  | b :: rest => { s with v := s.v.setIfInBounds k b }.setVs (k + 1) rest

/-- `I <- w` (R30). -/
def State.setI (s : State) (w : Word) : State := { s with i := w }

/-- `PC <- w`; no check is made here (R120(d), R25). -/
def State.setPc (s : State) (w : Word) : State := { s with pc := w }

/-- The address A of the instruction that is executing: PC has advanced by 2 already (R26). -/
def State.instrAddr (s : State) : Word := s.pc - 2#16

/-- `DT <- b` (R32). -/
def State.setDt (s : State) (b : Byte) : State := { s with dt := b }

/-- `ST <- b` (R33). -/
def State.setSt (s : State) (b : Byte) : State := { s with st := b }

/-- The display replaced (R36). -/
def State.setDisp (s : State) (d : Display) : State := { s with disp := d }

/-- `Stack[SP] <- w; SP <- SP + 1`, or none when SP = 16 (R31, R34, R123). -/
def State.push (s : State) (w : Word) : Option State :=
  if h : s.sp.val < 16 then
    some { s with stack := s.stack.set s.sp.val w h, sp := ⟨s.sp.val + 1, Nat.succ_lt_succ h⟩ }
  else none

/-- `SP <- SP - 1` and the entry `Stack[SP]`, or none when SP = 0 (R31, R34, R121). The entry is not cleared. -/
def State.pop (s : State) : Option (Word × State) :=
  match h : s.sp.val with
  | 0 => none
  | n + 1 =>
    have hn : n < 16 := Nat.lt_of_succ_lt_succ (h ▸ s.sp.isLt)
    some (s.stack[n]'hn, { s with sp := ⟨n, Nat.lt_succ_of_lt hn⟩ })

/-- A fresh free value is taken: the counter advances (R42, log entries 1 and 2). -/
def State.countDraw (s : State) : State := { s with draws := s.draws + 1 }

/-! ## Events, faults and the fetch -/

/-- `emit e`: an event appended to the trace (R10, R39). -/
def State.emit (s : State) (e : Event) : State := { s with trace := s.trace ++ [e] }

/-- `raise F(info)`: the fault is reported and the Executor halts; nothing else changes, nothing is saved and control
goes nowhere (R10, R228). -/
def State.raise (s : State) (f : Fatal) : State := { s.emit (.fault f) with run := .halted f.name }

/-- CheckRange(base, count) passes: no byte of the range lies above 4095, and an empty range always passes (R66). -/
def inRange (base : Word) (count : Nat) : Bool := count == 0 || decide (base.toNat + count - 1 ≤ 4095)

/-- CheckRange(I, count), then the instruction's effect; on an out-of-range access nothing is read or written
(R66, R225). -/
def State.checkRange (s : State) (count : Nat) (effect : State) : State :=
  if inRange s.i count then effect else s.raise (.memoryOutOfBounds s.i count)

/-- Execution of an unknown word: a warning with the word and its address, and nothing else (R101, R226). -/
def State.warnUnknown (s : State) (op : Word) : State := s.emit (.warnUnknownOpcode op s.instrAddr)

/-- MemRead(PC, 2): the word at PC, big-endian (R62, R63). -/
def State.wordAtPc (s : State) : Word := wordOfBytes (s.readByte s.pc.toNat) (s.readByte (s.pc.toNat + 1))

/-- Fetch (R63): the word at PC with PC advanced by 2, or the fatal condition of R222 with nothing changed. -/
def State.fetch (s : State) : Except Fatal (Word × State) :=
  if 4094 < s.pc.toNat then .error (.programCounterOutOfBounds s.pc)
  else .ok (s.wordAtPc, s.setPc (s.pc + 2#16))

end Sys2Proof.Machine
end

