-- ==== Sys2Proof/Machine/Flags.lean ====
section
/-! DEFINITION. Every flag computation (spec/10_state.md R24) and the order of the writes of a result and its flag
(spec/41_alu.md R141). The flag is VF; no instruction reads it implicitly. -/

namespace Sys2Proof.Machine

/-- VF, `V[0xF]` (R21). -/
def vf : Nibble := 0xF#4

/-- A flag value as a byte: 1 or 0. -/
def flagByte (c : Bool) : Byte := if c then 1#8 else 0#8

/-- Carry of ADD: the sum exceeds 255 (R149). -/
def carryFlag (a b : Byte) : Byte := flagByte (decide (255 < a.toNat + b.toNat))

/-- Flag of SUB and SUBN: minuend strictly greater than subtrahend (R142, R150, R152). -/
def greaterFlag (a b : Byte) : Byte := flagByte (decide (b.toNat < a.toNat))

/-- Flag of SHR: bit 0 before the shift (R151). -/
def lowBitFlag (a : Byte) : Byte := flagByte (a.getLsbD 0)

/-- Flag of SHL: bit 7 before the shift (R153). -/
def highBitFlag (a : Byte) : Byte := flagByte (a.getLsbD 7)

/-- Flag of FX1E: the unreduced sum exceeds 0xFFF (R171, decision D18). -/
def indexFlag (i : Word) (a : Byte) : Byte := flagByte (decide (0xFFF < i.toNat + a.toNat))

/-- The result to `V[x]`, then the flag to VF, last: with x = 0xF the flag is what VF holds (R141, decision D4). -/
def State.setResultFlag (s : State) (x : Nibble) (result flag : Byte) : State :=
  (s.setV x result).setV vf flag

end Sys2Proof.Machine
end

