-- ==== Sys2Proof/Machine/Draw.lean ====
section
/-! DEFINITION. Display instructions (spec/43_display.md R190 to R193): clear, and the sprite drawn by exclusive OR,
written as the rule's own loops over rows and columns. -/

namespace Sys2Proof.Machine

/-- `Disp[px][py]` (R36). -/
def Display.pixel (d : Display) (px : Fin 64) (py : Fin 32) : Bool := d[px][py]

/-- `Disp[px][py] <- b`. -/
def Display.setPixel (d : Display) (px : Fin 64) (py : Fin 32) (b : Bool) : Display :=
  d.set px (d[px].set py b)

/-- The display with every pixel unset. -/
def clearDisplay : Display := Vector.replicate 64 (Vector.replicate 32 false)

/-- `(x0 + col) mod 64` (R191(a)). -/
def pixelX (x0 : Byte) (col : Nat) : Fin 64 := Fin.ofNat 64 (x0.toNat + col)

/-- `(y0 + row) mod 32` (R191(a)). -/
def pixelY (y0 : Byte) (row : Nat) : Fin 32 := Fin.ofNat 32 (y0.toNat + row)

/-- One column of one sprite row: where the sprite bit is 1 (bit 7 is column 0, decision D20) the pixel is toggled, and a
pixel that was set is a hit. -/
def drawBit (x0 y0 : Byte) (row : Nat) (b : Byte) (acc : Display × Bool) (col : Nat) : Display × Bool :=
  if b.getLsbD (7 - col) then
    (Display.setPixel acc.1 (pixelX x0 col) (pixelY y0 row)
      (!Display.pixel acc.1 (pixelX x0 col) (pixelY y0 row)),
     acc.2 || Display.pixel acc.1 (pixelX x0 col) (pixelY y0 row))
  else acc

/-- One sprite row: columns 0 to 7. -/
def drawRow (x0 y0 : Byte) (row : Nat) (b : Byte) (acc : Display × Bool) : Display × Bool :=
  (List.range 8).foldl (drawBit x0 y0 row b) acc

/-- The sprite's rows from number `row` on. -/
def drawRows (x0 y0 : Byte) (row : Nat) : List Byte → Display × Bool → Display × Bool
  | [], acc => acc
  | b :: rest, acc => drawRows x0 y0 (row + 1) rest (drawRow x0 y0 row b acc)

/-- 00E0 CLS (R190). -/
def execCls (s : State) : Host.Outcome State Fault Refusal := .next (s.setDisp clearDisplay)

/-- The effect of DXYN once its range is checked: the sprite bytes drawn, then VF written once, last (R191). -/
def State.drawSprite (s : State) (x0 y0 : Byte) (sprite : List Byte) : State :=
  (s.setDisp (drawRows x0 y0 0 sprite (s.disp, false)).1).setV vf
    (flagByte (drawRows x0 y0 0 sprite (s.disp, false)).2)

/-- DXYN DRW Vx, Vy, N (R191). -/
def execDrw (x y n : Nibble) (s : State) : Host.Outcome State Fault Refusal :=
  .next (s.checkRange n.toNat (s.drawSprite (s.getV x) (s.getV y) (s.readBytes s.i.toNat n.toNat)))

end Sys2Proof.Machine
end

