-- ==== Sys2Proof/Machine/Operands.lean ====
section
/-! DEFINITION. Every operand form (spec/30_encoding.md R93): addresses NNN, the font glyph selected by a register,
the key selected by a register, decimal digits, and the keys that are pressed. Registers `V[X]`, `V[Y]` are
`State.getV`; the only memory operand is I plus an ascending offset (R65), `State.readBytes` and `State.writeBytes`. -/

namespace Sys2Proof.Machine

/-- `zext_16(NNN)`: a 12-bit address as a 16-bit value, never scaled (R93). -/
def zextAddr (nnn : Addr) : Word := nnn.setWidth 16

/-- `zext_16(b)`. -/
def zextByte (b : Byte) : Word := b.setWidth 16

/-- `zext_8(k)`: a key index as a register value (R205). -/
def zextKey (k : Nibble) : Byte := k.setWidth 8

/-- `(b & 0x0F) * 5`: the address of the glyph of the low nibble of b (R172). -/
def glyphAddr (b : Byte) : Word := BitVec.ofNat 16 ((b &&& 0x0F#8).toNat * 5)

/-- `b & 0x0F`: the key numbered by b (R203, decision D8). -/
def keyIndex (b : Byte) : Nibble := (b &&& 0x0F#8).setWidth 4

/-- `Key[k]` (R37). -/
def State.keyDown (s : State) (k : Nibble) : Bool := s.keys[k.toNat]'k.isLt

/-- The sixteen key indices, ascending. -/
def allKeys : List Nibble := (List.range 16).map (BitVec.ofNat 4)

/-- The set P of R205: the keys that are pressed. -/
def State.pressedKeys (s : State) : List Nibble := allKeys.filter s.keyDown

/-- `choose(P)` for P = `k :: rest` (R205): the only key if there is one, else an open choice among them by the free
value KEY_PICK (decision D9, log entry 2). -/
def chooseKey (draw : Nat) (k : Nibble) (rest : List Nibble) : Nibble :=
  match rest with
  | [] => k
  | _ => (k :: rest).getD (Config.keyPick draw % (k :: rest).length) k

/-- The decimal digits of a byte: hundreds, tens, ones, one byte each (R173). -/
def bcdDigits (a : Byte) : List Byte :=
  [BitVec.ofNat 8 (a.toNat / 100), BitVec.ofNat 8 (a.toNat / 10 % 10), BitVec.ofNat 8 (a.toNat % 10)]

/-- V0..Vx, in order: the bytes FX55 stores (R174). -/
def State.regsUpTo (s : State) (x : Nibble) : List Byte := s.v.toList.take (x.toNat + 1)

end Sys2Proof.Machine
end

