-- ==== Sys2Proof/Machine/IndexMemory.lean ====
section
/-! DEFINITION. Index register and memory instructions (spec/42_index_memory.md R170 to R176). The only
addressing mode is I plus an ascending byte offset; no memory instruction changes I (R176). -/

namespace Sys2Proof.Machine

/-- ANNN LD I, NNN (R170). -/
def execLdI (nnn : Addr) (s : State) : Host.Outcome State Fault Refusal := .next (s.setI (zextAddr nnn))

/-- FX1E ADD I, Vx (R171): I is reduced to 16 bits, the flag comes from the unreduced sum. -/
def execAddI (x : Nibble) (s : State) : Host.Outcome State Fault Refusal :=
  .next ((s.setI (s.i + zextByte (s.getV x))).setV vf (indexFlag s.i (s.getV x)))

/-- FX29 LD F, Vx (R172). -/
def execLdFont (x : Nibble) (s : State) : Host.Outcome State Fault Refusal := .next (s.setI (glyphAddr (s.getV x)))

/-- FX33 LD B, Vx (R173). -/
def execLdBcd (x : Nibble) (s : State) : Host.Outcome State Fault Refusal :=
  .next (s.checkRange 3 (s.writeBytes s.i.toNat (bcdDigits (s.getV x))))

/-- FX55 LD [I], Vx (R174). -/
def execStoreRegs (x : Nibble) (s : State) : Host.Outcome State Fault Refusal :=
  .next (s.checkRange (x.toNat + 1) (s.writeBytes s.i.toNat (s.regsUpTo x)))

/-- FX65 LD Vx, [I] (R175). -/
def execLoadRegs (x : Nibble) (s : State) : Host.Outcome State Fault Refusal :=
  .next (s.checkRange (x.toNat + 1) (s.setVs 0 (s.readBytes s.i.toNat (x.toNat + 1))))

end Sys2Proof.Machine
end

