-- ==== Sys2Proof/Machine/TimersKeys.lean ====
section
/-! DEFINITION. Timer and key instructions (spec/44_timers_keys.md R200 to R207). -/

namespace Sys2Proof.Machine

/-- EX9E SKP Vx (R203). -/
def execSkp (x : Nibble) (s : State) : Host.Outcome State Fault Refusal :=
  .next (s.skipIf (s.keyDown (keyIndex (s.getV x))))

/-- EXA1 SKNP Vx (R204). -/
def execSknp (x : Nibble) (s : State) : Host.Outcome State Fault Refusal :=
  .next (s.skipIf (!s.keyDown (keyIndex (s.getV x))))

/-- FX07 LD Vx, DT (R200). -/
def execLdVxDt (x : Nibble) (s : State) : Host.Outcome State Fault Refusal := .next (s.setV x s.dt)

/-- FX0A LD Vx, K (R205): with no key pressed PC goes back to A, so that the same instruction is fetched again;
otherwise the index of a pressed key (log entry 2). -/
def execLdVxKey (x : Nibble) (s : State) : Host.Outcome State Fault Refusal :=
  match s.pressedKeys with
  | [] => .next (s.setPc (s.pc - 2#16))
  | k :: rest => .next (s.countDraw.setV x (zextKey (chooseKey s.draws k rest)))

/-- FX15 LD DT, Vx (R201). -/
def execLdDtVx (x : Nibble) (s : State) : Host.Outcome State Fault Refusal := .next (s.setDt (s.getV x))

/-- FX18 LD ST, Vx (R202): no signal and no change of TONE here. -/
def execLdStVx (x : Nibble) (s : State) : Host.Outcome State Fault Refusal := .next (s.setSt (s.getV x))

end Sys2Proof.Machine
end

