-- ==== Sys2Proof/Machine/HostActions.lean ====
section
/-! DEFINITION. The host's actions (spec/60_exceptions.md R244 to R246, spec/70_reset_and_hazards.md R260 to R263). -/

namespace Sys2Proof.Machine

/-- Init(FONT) (R260): every piece of the machine's state at its reset value, FONT at 0x000..0x04F; nothing is emitted.
The model's own agenda and draw counter go on. -/
def State.init (s : State) (font : Font) : State :=
  { State.reset with agenda := s.agenda, draws := s.draws }.writeBytes 0 font.toList

/-- LoadProgram(bytes) in load time (R261): the bytes from 0x200 on, or RomTooLarge and no change (R227). -/
def State.loadProgram (s : State) (bytes : List Byte) : State :=
  if romFits bytes then { s.writeBytes Config.progBase.toNat bytes with reply := some .loaded }
  else { s with reply := some .romTooLarge }

/-- StartTimer (R262). DESIGN CHOICE (log entry 13): no guard on RUN, so after a Shutdown it turns the ticks on again while
RUN stays what it is; R262 gives no precondition, R263 and R250 can be read against it. -/
def State.startTimer (s : State) : State := { s with timerOn := true }

/-- SetKey(k, b) (R245). -/
def State.setKey (s : State) (k : Nibble) (b : Bool) : State := { s with keys := s.keys.set k.toNat b k.isLt }

/-- ReadDisplay (R246): the answer is the whole display; the machine is unchanged. -/
def State.readDisplay (s : State) : State := { s with reply := some (.display s.disp) }

/-- RUN after a Shutdown: Stopped (R263), but a halted machine leaves Halted only by Init (R229, decision D14). DEDUCED
(log entry 14): R263, R40 and vector TR6 put no condition on Shutdown. -/
def RunState.afterShutdown : RunState → RunState
  | .running | .stopped => .stopped
  | .halted f => .halted f

/-- Shutdown (R263): neither the Executor nor the TimerService has a step after it; all other state stays. Only Init
brings the Executor back; that StartTimer may bring the ticks back is log entry 13. -/
def State.shutdown (s : State) : State := { s with run := s.run.afterShutdown, timerOn := false }

end Sys2Proof.Machine
end

