-- ==== Sys2Proof/Machine/Timer.lean ====
section
/-! DEFINITION. The TimerService's tick (spec/60_exceptions.md R240 to R243): DT and ST count down, and the tone is
started and stopped by the TONE latch (decision D12). -/

namespace Sys2Proof.Machine

/-- DT is decremented while above 0 (R241). -/
def State.tickDelay (s : State) : State := if 0 < s.dt.toNat then s.setDt (s.dt - 1#8) else s

/-- The start part of R242: ST went from zero to nonzero since the last tick. -/
def State.tickStart (s : State) (s0 : Byte) : State :=
  if 0 < s0.toNat ∧ s.tone = false then { s with tone := true }.emit .audioStart else s

/-- ST is decremented while above 0 (R242). -/
def State.tickSound (s : State) (s0 : Byte) : State := if 0 < s0.toNat then s.setSt (s0 - 1#8) else s

/-- The stop part of R242: ST is zero and the tone is on. -/
def State.tickStop (s : State) : State :=
  if s.st = 0#8 ∧ s.tone = true then { s with tone := false }.emit .audioStop else s

/-- Tick (R241, R242); ST is sampled at the start. -/
def State.tick (s : State) : State := (((s.tickDelay).tickStart s.st).tickSound s.st).tickStop

end Sys2Proof.Machine
end

