-- ==== Sys2Proof/Machine/Executor.lean ====
section
/-! DEFINITION. One step of the Executor (spec/30_encoding.md R98), the atomic actions of the four agents
(spec/00_scope.md R12, spec/20_memory.md R72), and which of them comes next (the agenda, log entry 3). -/

namespace Sys2Proof.Machine

/-- Execute what decodes, or warn (R98, R101). -/
def execWord (op : Word) (s : State) : Host.Outcome State Fault Refusal :=
  match decode op with
  | .ok i => exec i s
  | .error _ => .next (s.warnUnknown op)

/-- Step() (R98): fetch, decode, execute. Enabled only when RUN = Running. A Step ends the load window (R261). -/
def executorStep (s : State) : Host.Outcome State Fault Refusal :=
  match s.run with
  | .halted f => .fault (.executorHalted f)
  | .stopped => .fault .executorStopped
  | .running =>
    match State.fetch { s with loadTime := false } with
    | .error f => .next (State.raise { s with loadTime := false } f)
    | .ok (op, t) => execWord op t

/-- One atomic action (R72, R244). A tick is enabled while TIMER_ON (R240), LoadProgram in the load window (R261);
the other host actions always are. DESIGN CHOICE (log entry 13): StartTimer is enabled after a Shutdown too. -/
def perform (a : Action) (s : State) : Host.Outcome State Fault Refusal :=
  match a with
  | .step => executorStep s
  | .tick => if s.timerOn then .next s.tick else .fault .timerNotRunning
  | .init font => .next (s.init font)
  | .loadProgram bytes => if s.loadTime then .next (s.loadProgram bytes) else .refused .loadOutsideLoadTime
  | .startTimer => .next s.startTimer
  | .setKey k b => .next (s.setKey k b)
  | .readDisplay => .next s.readDisplay
  | .shutdown => .next s.shutdown

/-- The next action of the machine: the first of the agenda, or the Executor's step when it is empty. -/
def nextAction (s : State) : Host.Outcome State Fault Refusal :=
  match s.agenda with
  | [] => executorStep s
  | a :: rest => perform a { s with agenda := rest }

/-- An agenda whose next action is the Executor's step. -/
def executorFirst (agenda : List Action) : List Action :=
  match agenda with
  | [] => []
  | .step :: rest => .step :: rest
  | other => .step :: other

/-- A state whose next action fetches: the Executor runs, has the turn, and PC is an address that fetches. -/
def State.readyToFetch (s : State) : State :=
  { s with
    run := .running
    agenda := executorFirst s.agenda
    pc := if s.pc.toNat ≤ 4094 then s.pc else Config.progBase }

/-- An instruction word stored where the next step fetches, high byte first (R62, R63). -/
def State.placeWord (s : State) (op : Word) : State :=
  s.readyToFetch.writeBytes s.readyToFetch.pc.toNat [highByte op, lowByte op]

end Sys2Proof.Machine
end

