-- ==== Sys2Proof/Machine/Step.lean ====
section
/-! DEFINITION. The machine's step: one atomic action of spec/20_memory.md R72. -/

namespace Sys2Proof.Machine

/-- One atomic action: the first of the agenda, or a step of the Executor when the agenda is empty. -/
def step (s : State) : Host.Outcome State Fault Refusal := nextAction s

/-- `s` with the instruction whose bits are `w`, numbered as spec/opcode_table.json numbers them, stored where the next
step fetches. -/
def State.withFetchWord (s : State) (nbits w : Nat) : State := s.placeWord (tableWord nbits w)

end Sys2Proof.Machine
end

