-- ==== Sys2Proof/Safety.lean ====
section
/-! DEFINITION. What counts as a safe run and the invariants the claims are stated in: memory in canonical form, PC in the
range the rules can produce, the tone events alternating, one fatal condition at most. -/

namespace Sys2Proof.Machine

/-- A step is safe when it answers a next state in which no fatal condition has halted the Executor (R228). -/
def SafeOutcome : Host.Outcome State Fault Refusal → Prop
  | .next t => ∀ f, t.run ≠ .halted f
  | .fault _ => False
  | .refused _ => False

/-- Memory is in its canonical form. -/
def State.MemCanonical (s : State) : Prop := s.mem.wf

/-- PC is at most 0x10FE, the largest value a rule can produce (R25, R28), and every return address on the stack, popped or not,
at most 0x1000, the largest value a call can push (R121). -/
def State.PcInRange (s : State) : Prop :=
  s.pc.toNat ≤ 0x10FE ∧ ∀ n : Fin 16, s.stack[n].toNat ≤ 0x1000

/-- Reads the tone events of a trace from left to right, starting with the tone on or off: the tone at the end, or none where a start
finds the tone on or a stop finds it off. Other events are passed over. -/
def toneAfter : Bool → List Event → Option Bool
  | on, [] => some on
  | on, .audioStart :: rest => if on then none else toneAfter true rest
  | on, .audioStop :: rest => if on then toneAfter false rest else none
  | on, .warnUnknownOpcode _ _ :: rest => toneAfter on rest
  | on, .fault _ :: rest => toneAfter on rest

/-- AudioStart and AudioStop strictly alternate in the trace, starting with AudioStart, and TONE is 1 exactly when the last of
them is a start (R38, R243(b)). -/
def State.ToneAlternates (s : State) : Prop := toneAfter false s.trace = some s.tone

/-- The fatal conditions of a trace, in order. -/
def fatalsOf (trace : List Event) : List FatalName :=
  trace.filterMap fun e => match e with
    | .fault f => some f.name
    | _ => none

/-- RUN and the trace agree: none raised while Running, exactly the recorded one when Halted, none when Stopped, since
only a machine that has not halted can come to Stopped (R228, R229: a halted Executor raises nothing more, and only Init leaves Halted;
log entry 14). -/
def State.OneFatal (s : State) : Prop :=
  match s.run with
  | .running | .stopped => fatalsOf s.trace = []
  | .halted f => fatalsOf s.trace = [f]

/-! ## Terms the claims use -/

/-- Every word the mask and value of a row accept decodes to the instruction its fields give (R92, R95). -/
def RowDecodes (mask value : Word) (instr : Word → Instr) : Prop :=
  ∀ op : Word, op &&& mask = value → decode op = .ok (instr op)

/-- The Executor has the next action: the agenda is empty, or it begins with a step. -/
def State.ExecutorsTurn (s : State) : Prop := s.agenda = [] ∨ s.agenda.head? = some .step

/-- `k` actions, stopping at the first that answers no next state. -/
def steps : Nat → State → Host.Outcome State Fault Refusal
  | 0, s => .next s
  | k + 1, s =>
    match step s with
    | .next t => steps k t
    | .fault r => .fault r
    | .refused r => .refused r

/-- The sprite of DXYN with these operands toggles this pixel: some row and column of it with its bit set fall there (R191). -/
def State.SpriteCovers (s : State) (x y n : Nibble) (px : Fin 64) (py : Fin 32) : Prop :=
  ∃ row < n.toNat, ∃ col < 8, (s.readByte (s.i.toNat + row)).getLsbD (7 - col) = true ∧
    px.val = ((s.getV x).toNat + col) % 64 ∧ py.val = ((s.getV y).toNat + row) % 32

end Sys2Proof.Machine

namespace Sys2Proof

/-- The column "writes" of R22: the general registers an instruction may write. -/
def Instr.mayWrite : Instr → Nibble → Bool
  | .ldImm x _, k | .addImm x _, k | .ldReg x _, k | .orReg x _, k | .andReg x _, k | .xorReg x _, k
  | .rnd x _, k | .ldVxDt x, k | .ldVxKey x, k => k == x
  | .addReg x _, k | .subReg x _, k | .shr x _, k | .subn x _, k | .shl x _, k => k == x || k == Machine.vf
  | .drw _ _ _, k | .addI _, k => k == Machine.vf
  | .loadRegs x, k => decide (k.toNat ≤ x.toNat)
  | .cls, _ | .ret, _ | .jp _, _ | .call _, _ | .seImm _ _, _ | .sneImm _ _, _ | .seReg _ _, _ | .sneReg _ _, _
  | .ldI _, _ | .jpV0 _, _ | .skp _, _ | .sknp _, _ | .ldDtVx _, _ | .ldStVx _, _ | .ldFont _, _ | .ldBcd _, _
  | .storeRegs _, _ => false

/-- The instructions R27 calls control transfers: after them PC need not be A + 2. -/
def Instr.controlTransfer : Instr → Bool
  | .ret | .jp _ | .call _ | .jpV0 _ | .seImm _ _ | .sneImm _ _ | .seReg _ _ | .sneReg _ _ | .skp _ | .sknp _
  | .ldVxKey _ => true
  | .cls | .ldImm _ _ | .addImm _ _ | .ldReg _ _ | .orReg _ _ | .andReg _ _ | .xorReg _ _ | .addReg _ _ | .subReg _ _
  | .shr _ _ | .subn _ _ | .shl _ _ | .ldI _ | .rnd _ _ | .drw _ _ _ | .ldVxDt _ | .ldDtVx _ | .ldStVx _ | .addI _
  | .ldFont _ | .ldBcd _ | .storeRegs _ | .loadRegs _ => false

end Sys2Proof

namespace Sys2Proof.Machine

/-- The unknown words as R101 lists them. -/
def UnknownWord (op : Word) : Prop :=
  (op.toNat < 0x1000 ∧ op ≠ 0x00E0#16 ∧ op ≠ 0x00EE#16) ∨
  ((fieldOp op = 0x5#4 ∨ fieldOp op = 0x9#4) ∧ fieldN op ≠ 0x0#4) ∨
  (fieldOp op = 0x8#4 ∧ fieldN op ∈ [0x8#4, 0x9#4, 0xA#4, 0xB#4, 0xC#4, 0xD#4, 0xF#4]) ∨
  (fieldOp op = 0xE#4 ∧ fieldNN op ∉ [0x9E#8, 0xA1#8]) ∨
  (fieldOp op = 0xF#4 ∧
    fieldNN op ∉ [0x07#8, 0x0A#8, 0x15#8, 0x18#8, 0x1E#8, 0x29#8, 0x33#8, 0x55#8, 0x65#8])

end Sys2Proof.Machine
end

