-- ==== Sys2Proof/Certificates/Slice0/Obligations.lean ====
section
/-! DEFINITION. The statements of this row, one `def Obligations.<Name> : Prop` each, from the numbered rules of spec/. A
result statement says: which words are the instruction, that exec answers a next state, what that state holds, and that with
the written fields put back it is the old state (its frame; the conjunct on readByte says the same of every byte of memory).
In `exec i s` the state `s` is the one the fetch leaves, with PC = A + 2 (R26). -/

open Sys2Proof Sys2Proof.Machine

/-! ## Reset and host actions -/

/-- R41: the state after Init, item by item. The values of I, SP, TONE, RUN, TIMER_ON and the trace are the spec's decisions D21,
D12, D14, D26, D1; the font bytes are the default of R68 (decision D19, log entry 6). -/
def Obligations.ResetIsTheTableOfReset : Prop :=
  (∀ x : Nibble, State.reset.getV x = 0#8) ∧ State.reset.i = 0#16 ∧ State.reset.pc = 0x200#16 ∧
  State.reset.sp = 0 ∧ (∀ n : Fin 16, State.reset.stack[n] = 0#16) ∧ State.reset.dt = 0#8 ∧ State.reset.st = 0#8 ∧
  (∀ a : Fin 80, State.reset.readByte a.val = defaultFont[a]) ∧
  (∀ a, 80 ≤ a → a < 4096 → State.reset.readByte a = 0#8) ∧
  (∀ px py, Display.pixel State.reset.disp px py = false) ∧ (∀ k : Nibble, State.reset.keyDown k = false) ∧
  State.reset.tone = false ∧ State.reset.run = .running ∧ State.reset.timerOn = false ∧ State.reset.trace = []

/-- R260: Init in any state, with any FONT, leaves the font at 0..79, zero in the rest of memory, and every other piece of the
machine's state as at reset; it emits nothing. The agenda and the draw counter are the model's own (log entries 1 and 3). -/
def Obligations.InitResetsWithAnyFont : Prop :=
  ∀ (s : State) (font : Font) (rest : List Action), s.agenda = .init font :: rest →
    ∃ t, step s = .next t ∧
      (∀ a : Fin 80, t.readByte a.val = font[a]) ∧ (∀ a, 80 ≤ a → a < 4096 → t.readByte a = 0#8) ∧
      { t with mem := [], agenda := [], draws := 0 } = State.reset

/-- R261, R227: LoadProgram in the load window writes the bytes from 0x200 on and nothing else; more than 3584 bytes change
nothing and are answered RomTooLarge; outside the window (decision D22, log entry 4) it is refused. The answer is the
model's field `reply` (log entry 5). -/
def Obligations.LoadProgramWritesTheRom : Prop :=
  ∀ (s : State) (bytes : List Byte) (rest : List Action), s.agenda = .loadProgram bytes :: rest → s.MemCanonical →
    (s.loadTime = true → bytes.length ≤ 3584 → ∃ t, step s = .next t ∧
      (∀ j (h : j < bytes.length), t.readByte (0x200 + j) = bytes[j]) ∧
      (∀ a, a < 0x200 ∨ 0x200 + bytes.length ≤ a → t.readByte a = s.readByte a) ∧
      t.reply = some .loaded ∧ { t with mem := s.mem, reply := s.reply, agenda := s.agenda } = s) ∧
    (s.loadTime = true → 3584 < bytes.length → ∃ t, step s = .next t ∧ t.reply = some .romTooLarge ∧
      { t with reply := s.reply, agenda := s.agenda } = s) ∧
    (s.loadTime = false → step s = .refused .loadOutsideLoadTime)

/-- R262, R263, R229: StartTimer sets TIMER_ON and nothing else; Shutdown clears TIMER_ON, sets RUN = Stopped unless the machine is halted, and
does nothing else (it emits nothing, decision D26); right after it neither the Executor nor the TimerService has a step. That a halted machine stays
Halted is R229 and decision D14 followed against the unconditional R263 (DEDUCED, log entry 14). That StartTimer has no guard, and so sets TIMER_ON
after a Shutdown too, is the model's choice (log entry 13). -/
def Obligations.TimerSwitchAndShutdown : Prop :=
  (∀ (s : State) (rest : List Action), s.agenda = .startTimer :: rest →
    step s = .next { s with timerOn := true, agenda := rest }) ∧
  (∀ (s : State) (rest : List Action), s.agenda = .shutdown :: rest →
    ∃ t, step s = .next t ∧
      (∀ f, s.run = .halted f → t = { s with timerOn := false, agenda := rest } ∧
        (t.ExecutorsTurn → step t = .fault (.executorHalted f))) ∧
      ((∀ f, s.run ≠ .halted f) → t = { s with run := .stopped, timerOn := false, agenda := rest } ∧
        (t.ExecutorsTurn → step t = .fault .executorStopped)) ∧
      (t.agenda.head? = some .tick → step t = .fault .timerNotRunning))

/-- R245: SetKey(k, b) performs Key[k] <- b and nothing else, and no instruction and no tick changes a key. -/
def Obligations.SetKeyWritesOneKey : Prop :=
  (∀ (s : State) (k : Nibble) (b : Bool) (rest : List Action), s.agenda = .setKey k b :: rest →
    ∃ t, step s = .next t ∧ (∀ j, t.keyDown j = if j = k then b else s.keyDown j) ∧
      { t with keys := s.keys, agenda := s.agenda } = s) ∧
  (∀ (i : Instr) (s t : State), exec i s = .next t → t.keys = s.keys) ∧ (∀ s : State, s.tick.keys = s.keys)

/-- R246: ReadDisplay answers the whole display as the last action left it and changes nothing of the machine. The answer is
the model's field `reply` (log entry 5). -/
def Obligations.ReadDisplayIsASnapshot : Prop :=
  ∀ (s : State) (rest : List Action), s.agenda = .readDisplay :: rest →
    ∃ t, step s = .next t ∧ t.reply = some (.display s.disp) ∧ { t with reply := s.reply, agenda := s.agenda } = s

/-! ## The timer subsystem -/

/-- R241, R242: one tick, by the case table of R242 (TONE, s0): the new DT, ST and TONE, the events it emits, and nothing else;
without TIMER_ON there is no tick. The TONE latch is the spec's decision D12. -/
def Obligations.TickFollowsTheCaseTable : Prop :=
  ∀ (s : State) (rest : List Action), s.agenda = .tick :: rest →
    (s.timerOn = true → ∃ t, step s = .next t ∧
      t.dt.toNat = s.dt.toNat - 1 ∧ t.st.toNat = s.st.toNat - 1 ∧ t.tone = decide (2 ≤ s.st.toNat) ∧
      t.trace = s.trace ++
        (match s.tone, s.st.toNat with
          | false, 0 => []
          | false, 1 => [.audioStart, .audioStop]
          | false, _ => [.audioStart]
          | true, 0 => [.audioStop]
          | true, 1 => [.audioStop]
          | true, _ => []) ∧
      { t with dt := s.dt, st := s.st, tone := s.tone, trace := s.trace, agenda := s.agenda } = s) ∧
    (s.timerOn = false → step s = .fault .timerNotRunning)

/-- R241: after exactly k ticks with nothing between them, DT is max(n - k, 0), and ST the same; neither ever wraps. -/
def Obligations.TimersCountDownToZero : Prop :=
  ∀ (k : Nat) (s : State), s.timerOn = true → s.agenda = List.replicate k .tick →
    ∃ t, steps k s = .next t ∧ t.dt.toNat = s.dt.toNat - k ∧ t.st.toNat = s.st.toNat - k

/-- R243(c): with the tone off and ST = n > 0, k >= 1 ticks emit one AudioStart at the first and, from the n-th on, one AudioStop. -/
def Obligations.ToneSoundsUntilTheNthTick : Prop :=
  ∀ (k : Nat) (s : State), s.timerOn = true → s.agenda = List.replicate k .tick → 1 ≤ k → s.tone = false →
    0 < s.st.toNat →
    ∃ t, steps k s = .next t ∧
      t.trace = s.trace ++ (if k < s.st.toNat then [.audioStart] else [.audioStart, .audioStop])

/-- R243(b), R38: in the trace AudioStart and AudioStop strictly alternate, starting with AudioStart, and TONE says whether the last
was a start: every action keeps this. -/
def Obligations.StepKeepsToneAlternating : Prop :=
  ∀ s t : State, s.ToneAlternates → step s = .next t → t.ToneAlternates

/-- The invariant StepKeepsToneAlternating keeps holds at reset: the trace is empty and TONE is 0 (R41, decisions D1, D12). -/
def Obligations.ResetToneAlternates : Prop := State.reset.ToneAlternates

/-! ## Decoding -/

/-- R95, R94: a word decodes to an instruction exactly when a row of the opcode map accepts it, the instruction is of that row, and so
no word is accepted by two rows; there are 34 rows. The rows the source does not print are decision D25. -/
def Obligations.DecodeFollowsTheOpcodeMap : Prop :=
  (∀ op i, decode op = .ok i → i.row ∈ opcodeTable ∧ i.row.accepts op = true) ∧
  (∀ op, ∀ r ∈ opcodeTable, r.accepts op = true → ∃ i, decode op = .ok i ∧ i.row = r) ∧
  opcodeTable.Nodup ∧ opcodeTable.length = 34

/-- R101: the unknown words are exactly the words R101 lists (decision D6 for 5XYn, 9XYn and 0NNN). -/
def Obligations.UnknownWordsAreTheListed : Prop :=
  ∀ op : Word, decode op = .error (.unknownOpcode op) ↔ UnknownWord op

/-- R91, R92, R95: the decoder gives back every well-formed instruction from its encoding, with every operand at every value. -/
def Obligations.DecodeEncodeIsIdentity : Prop :=
  ∀ i : Instr, i.wellFormed = true → decode (encode i) = .ok i

/-- R91, R92, R97: no bit of an instruction word is dropped: what decodes encodes to the same word, the unused Y of the shifts included. -/
def Obligations.EncodeDecodeIsIdentity : Prop :=
  ∀ (op : Word) (i : Instr), decode op = .ok i → encode i = op

/-- R96, S1 to S5, TD1 and TK3: words the spec works through. The source prints the first seven; 0xD122 and 0xF118 are the spec's own words for the
patterns DXYN and FX18. The source labels 0x8015 as Vx = Vy; that it is SUB is the spec's resolution C1 (spec/90_conflicts.md). -/
def Obligations.PrintedWordsDecode : Prop :=
  decode 0x00E0#16 = .ok .cls ∧ decode 0x00EE#16 = .ok .ret ∧ decode 0x2300#16 = .ok (.call 0x300#12) ∧
  decode 0x6A0F#16 = .ok (.ldImm 0xA#4 0x0F#8) ∧ decode 0xA123#16 = .ok (.ldI 0x123#12) ∧
  decode 0x8014#16 = .ok (.addReg 0x0#4 0x1#4) ∧ decode 0x8015#16 = .ok (.subReg 0x0#4 0x1#4) ∧
  decode 0xD122#16 = .ok (.drw 0x1#4 0x2#4 0x2#4) ∧ decode 0xF118#16 = .ok (.ldStVx 0x1#4)

/-! ## The step -/

/-- R98, R63, R26: with RUN = Running and PC at most 4094, the Executor's step runs the instruction the two bytes at PC decode to, high byte
first, with PC advanced by 2. The step uses up its entry of the agenda and ends the load window (log entries 3 and 4). -/
def Obligations.StepRunsTheDecodedInstruction : Prop :=
  ∀ (s : State) (i : Instr), s.ExecutorsTurn → s.run = .running → s.pc.toNat ≤ 4094 → i.wellFormed = true →
    decode (s.readByte s.pc.toNat ++ s.readByte (s.pc.toNat + 1)) = .ok i →
    step s = exec i { s with pc := s.pc + 2#16, loadTime := false, agenda := s.agenda.tail }

/-- R101, R226: an unknown word only advances PC by 2 and adds its warning, with the word and its address (decision D15), to the trace. -/
def Obligations.UnknownWordOnlyWarns : Prop :=
  ∀ (s : State) (op : Word), s.ExecutorsTurn → s.run = .running → s.pc.toNat ≤ 4094 →
    op = s.readByte s.pc.toNat ++ s.readByte (s.pc.toNat + 1) → UnknownWord op →
    ∃ t, step s = .next t ∧ t.pc = s.pc + 2#16 ∧ t.run = .running ∧
      t.trace = s.trace ++ [.warnUnknownOpcode op s.pc] ∧
      { t with pc := s.pc, trace := s.trace, loadTime := s.loadTime, agenda := s.agenda } = s

/-- R63, R222: a fetch with PC above 4094 raises ProgramCounterOutOfBounds with the PC and changes nothing else; PC keeps the value
(decision D14). -/
def Obligations.FetchFaultKeepsPc : Prop :=
  ∀ s : State, s.ExecutorsTurn → s.run = .running → 4094 < s.pc.toNat →
    ∃ t, step s = .next t ∧ t.run = .halted .programCounterOutOfBounds ∧
      t.trace = s.trace ++ [.fault (.programCounterOutOfBounds s.pc)] ∧
      { t with run := s.run, trace := s.trace, loadTime := s.loadTime, agenda := s.agenda } = s

/-- R228, R40 (decision D14): a halted or stopped Executor has no step, and a halted machine's timer still ticks. -/
def Obligations.HaltedExecutorHasNoStep : Prop :=
  (∀ (s : State) (f : FatalName), s.ExecutorsTurn → s.run = .halted f → step s = .fault (.executorHalted f)) ∧
  (∀ s : State, s.ExecutorsTurn → s.run = .stopped → step s = .fault .executorStopped) ∧
  (∀ (s : State) (f : FatalName) (rest : List Action), s.run = .halted f → s.agenda = .tick :: rest → s.timerOn = true →
    ∃ t, step s = .next t ∧ t.run = .halted f ∧ t.dt.toNat = s.dt.toNat - 1)

/-- R229, R40, R250: only Init changes RUN of a halted or stopped machine, and it brings the machine back to Running. That Shutdown does not make a
halted machine Stopped is R229 and decision D14 followed against the unconditional R263 (DEDUCED, log entry 14). -/
def Obligations.OnlyInitRestarts : Prop :=
  ∀ s t : State, s.run ≠ .running → step s = .next t →
    t.run = s.run ∨ ∃ font rest, s.agenda = .init font :: rest ∧ t.run = .running

/-- R228, R232, R223, R224, R225 (decisions D3, D14): an instruction that stops the Executor changes nothing but RUN and the trace, and it
is RET on an empty stack, CALL on a full one, or a memory instruction whose range passes 4095, with the value each records. -/
def Obligations.InstructionFaultsArePrecise : Prop :=
  ∀ (i : Instr) (s t : State), exec i s = .next t → s.run = .running → t.run ≠ .running →
    ∃ f : Fatal, t = { s with run := .halted f.name, trace := s.trace ++ [.fault f] } ∧
      ((i = .ret ∧ s.sp = 0 ∧ f = .stackUnderflow (s.pc - 2#16)) ∨
       (∃ nnn, i = .call nnn ∧ s.sp = 16 ∧ f = .stackOverflow (s.pc - 2#16)) ∨
       (∃ x y n, i = .drw x y n ∧ 0 < n.toNat ∧ 4095 < s.i.toNat + n.toNat - 1 ∧ f = .memoryOutOfBounds s.i n.toNat) ∨
       (∃ x, i = .ldBcd x ∧ 4095 < s.i.toNat + 2 ∧ f = .memoryOutOfBounds s.i 3) ∨
       (∃ x, (i = .storeRegs x ∨ i = .loadRegs x) ∧ 4095 < s.i.toNat + x.toNat ∧
          f = .memoryOutOfBounds s.i (x.toNat + 1)))

/-- R228, R229: while Running or Stopped no fatal condition stands in the trace, a halted machine has exactly the one it reports, and none is ever
added: every action keeps this. That a halted machine does not become Stopped is log entry 14 (DEDUCED from R229 and decision D14). -/
def Obligations.StepKeepsOneFatal : Prop := ∀ s t : State, s.OneFatal → step s = .next t → t.OneFatal

/-- The invariant StepKeepsOneFatal keeps holds at reset: RUN is Running and the trace is empty (R41, decisions D1, D14). -/
def Obligations.ResetHasNoFatal : Prop := State.reset.OneFatal

/-- R27, R228: every instruction that is no control transfer leaves PC = A + 2, and so does an instruction that faults in execution. -/
def Obligations.PcAdvancesByTwo : Prop :=
  ∀ (s t : State) (i : Instr), s.ExecutorsTurn → s.run = .running → s.pc.toNat ≤ 4094 →
    decode (s.readByte s.pc.toNat ++ s.readByte (s.pc.toNat + 1)) = .ok i → step s = .next t →
    i.controlTransfer = false ∨ t.run ≠ .running → t.pc = s.pc + 2#16

/-- R25, R28, R121: PC never exceeds 0x10FE and no return address 0x1000: every action keeps this, so PC never wraps. -/
def Obligations.StepKeepsPcInRange : Prop := ∀ s t : State, s.PcInRange → step s = .next t → t.PcInRange

/-- The invariant StepKeepsPcInRange keeps holds at reset: PC is 0x200 and every stack entry 0 (R41). -/
def Obligations.ResetPcInRange : Prop := State.reset.PcInRange

/-- R122, R205(b), R275: a jump to itself, and a key wait with no key pressed, change nothing at all. The premises on the agenda and the load
window say that the model's own fields have settled. -/
def Obligations.SelfJumpAndKeyWaitIdle : Prop :=
  ∀ s : State, s.agenda = [] → s.loadTime = false → s.run = .running → s.pc.toNat ≤ 4094 →
    (∀ nnn : Addr, decode (s.readByte s.pc.toNat ++ s.readByte (s.pc.toNat + 1)) = .ok (.jp nnn) →
      nnn.toNat = s.pc.toNat → step s = .next s) ∧
    (∀ x : Nibble, decode (s.readByte s.pc.toNat ++ s.readByte (s.pc.toNat + 1)) = .ok (.ldVxKey x) →
      (∀ k, s.keyDown k = false) → step s = .next s)

/-! ## Control transfer -/

/-- R121, R224: 00EE. On an empty stack StackUnderflow with the address A = PC - 2, nothing else changed; otherwise SP falls by one and PC is the
entry it then points at, which is not cleared.
The halt of a fault is decision D14. -/
def Obligations.RetPopsOrUnderflows : Prop :=
  decode 0x00EE#16 = .ok .ret ∧
  ∀ s : State,
    (s.sp.val = 0 → exec .ret s =
      .next { s with run := .halted .stackUnderflow, trace := s.trace ++ [.fault (.stackUnderflow (s.pc - 2#16))] }) ∧
    (∀ n (h : n < 16), s.sp.val = n + 1 →
      ∃ t, exec .ret s = .next t ∧ t.sp.val = n ∧ t.pc = s.stack[n] ∧
        (∀ a, t.readByte a = s.readByte a) ∧ { t with sp := s.sp, pc := s.pc } = s)

/-- R123, R223: 2NNN. On a full stack StackOverflow with the address A = PC - 2, nothing else changed; otherwise PC, which is A + 2, is pushed at
Stack[SP], SP rises by one and PC is NNN.
The halt of a fault is decision D14, the widths D2. -/
def Obligations.CallPushesOrOverflows : Prop :=
  RowDecodes 0xF000#16 0x2000#16 (fun op => .call (fieldNNN op)) ∧
  ∀ (nnn : Addr) (s : State),
    (s.sp.val = 16 → exec (.call nnn) s =
      .next { s with run := .halted .stackOverflow, trace := s.trace ++ [.fault (.stackOverflow (s.pc - 2#16))] }) ∧
    (s.sp.val < 16 →
      ∃ t, exec (.call nnn) s = .next t ∧ t.sp.val = s.sp.val + 1 ∧ t.pc.toNat = nnn.toNat ∧
        (∀ k : Fin 16, t.stack[k] = if k.val = s.sp.val then s.pc else s.stack[k]) ∧
        (∀ a, t.readByte a = s.readByte a) ∧ { t with sp := s.sp, pc := s.pc, stack := s.stack } = s)

/-- R129: after a call and the matching return, wherever the return stands, SP is what it was before the call and PC is the address after the
call. -/
def Obligations.CallThenReturnComesBack : Prop :=
  ∀ (nnn : Addr) (s : State) (pc : Word), s.sp.val < 16 →
    ∃ t u, exec (.call nnn) s = .next t ∧ exec .ret { t with pc := pc } = .next u ∧ u.sp = s.sp ∧ u.pc = s.pc

/-- R122, R124: 1NNN sets PC to NNN, BNNN to NNN + V0, a sum not reduced to 12 bits; nothing else changes.
The words of rows the source does not print are decision D25. -/
def Obligations.JumpsSetPc : Prop :=
  (RowDecodes 0xF000#16 0x1000#16 (fun op => .jp (fieldNNN op)) ∧ ∀ (nnn : Addr) (s : State),
    ∃ t, exec (.jp nnn) s = .next t ∧ t.pc.toNat = nnn.toNat ∧ (∀ a, t.readByte a = s.readByte a) ∧
      { t with pc := s.pc } = s) ∧
  (RowDecodes 0xF000#16 0xB000#16 (fun op => .jpV0 (fieldNNN op)) ∧ ∀ (nnn : Addr) (s : State),
    ∃ t, exec (.jpV0 nnn) s = .next t ∧ t.pc.toNat = nnn.toNat + (s.getV 0x0#4).toNat ∧
      (∀ a, t.readByte a = s.readByte a) ∧ { t with pc := s.pc } = s)

/-- R125, R126: 3XNN adds 2 to PC when Vx = NN, 4XNN when Vx differs; nothing else changes.
The words of rows the source does not print are decision D25. -/
def Obligations.SkipsOnImmediate : Prop :=
  (RowDecodes 0xF000#16 0x3000#16 (fun op => .seImm (fieldX op) (fieldNN op)) ∧ ∀ (x : Nibble) (nn : Byte) (s : State),
    ∃ t, exec (.seImm x nn) s = .next t ∧ (s.getV x = nn → t.pc = s.pc + 2#16) ∧ (s.getV x ≠ nn → t.pc = s.pc) ∧
      (∀ a, t.readByte a = s.readByte a) ∧ { t with pc := s.pc } = s) ∧
  (RowDecodes 0xF000#16 0x4000#16 (fun op => .sneImm (fieldX op) (fieldNN op)) ∧ ∀ (x : Nibble) (nn : Byte) (s : State),
    ∃ t, exec (.sneImm x nn) s = .next t ∧ (s.getV x ≠ nn → t.pc = s.pc + 2#16) ∧ (s.getV x = nn → t.pc = s.pc) ∧
      (∀ a, t.readByte a = s.readByte a) ∧ { t with pc := s.pc } = s)

/-- R127, R128: 5XY0 adds 2 to PC when Vx = Vy, 9XY0 when they differ (so 5XX0 always skips and 9XX0 never); nothing else changes.
The words of rows the source does not print are decision D25. -/
def Obligations.SkipsOnRegisters : Prop :=
  (RowDecodes 0xF00F#16 0x5000#16 (fun op => .seReg (fieldX op) (fieldY op)) ∧ ∀ (x y : Nibble) (s : State),
    ∃ t, exec (.seReg x y) s = .next t ∧ (s.getV x = s.getV y → t.pc = s.pc + 2#16) ∧
      (s.getV x ≠ s.getV y → t.pc = s.pc) ∧ (∀ a, t.readByte a = s.readByte a) ∧ { t with pc := s.pc } = s) ∧
  (RowDecodes 0xF00F#16 0x9000#16 (fun op => .sneReg (fieldX op) (fieldY op)) ∧ ∀ (x y : Nibble) (s : State),
    ∃ t, exec (.sneReg x y) s = .next t ∧ (s.getV x ≠ s.getV y → t.pc = s.pc + 2#16) ∧
      (s.getV x = s.getV y → t.pc = s.pc) ∧ (∀ a, t.readByte a = s.readByte a) ∧ { t with pc := s.pc } = s)

/-- R203, R204: EX9E adds 2 to PC when the key numbered by the low nibble of Vx is pressed, EXA1 when it is not; nothing else changes. The low nibble
and the presence of the pair are decisions D8 and D7.
The words of rows the source does not print are decision D25. -/
def Obligations.SkipsOnKeys : Prop :=
  (RowDecodes 0xF0FF#16 0xE09E#16 (fun op => .skp (fieldX op)) ∧ ∀ (x k : Nibble) (s : State),
    k.toNat = (s.getV x).toNat % 16 →
    ∃ t, exec (.skp x) s = .next t ∧ (s.keyDown k = true → t.pc = s.pc + 2#16) ∧
      (s.keyDown k = false → t.pc = s.pc) ∧ (∀ a, t.readByte a = s.readByte a) ∧ { t with pc := s.pc } = s) ∧
  (RowDecodes 0xF0FF#16 0xE0A1#16 (fun op => .sknp (fieldX op)) ∧ ∀ (x k : Nibble) (s : State),
    k.toNat = (s.getV x).toNat % 16 →
    ∃ t, exec (.sknp x) s = .next t ∧ (s.keyDown k = false → t.pc = s.pc + 2#16) ∧
      (s.keyDown k = true → t.pc = s.pc) ∧ (∀ a, t.readByte a = s.readByte a) ∧ { t with pc := s.pc } = s)

/-! ## Register and arithmetic instructions -/

/-- R143, R170: 6XNN loads NN into Vx, ANNN sets I to NNN zero-extended; nothing else changes. -/
def Obligations.LoadImmediates : Prop :=
  (RowDecodes 0xF000#16 0x6000#16 (fun op => .ldImm (fieldX op) (fieldNN op)) ∧ ∀ (x : Nibble) (nn : Byte) (s : State),
    ∃ t, exec (.ldImm x nn) s = .next t ∧ t.getV x = nn ∧ (∀ k, k ≠ x → t.getV k = s.getV k) ∧
      (∀ a, t.readByte a = s.readByte a) ∧ { t with v := s.v } = s) ∧
  (RowDecodes 0xF000#16 0xA000#16 (fun op => .ldI (fieldNNN op)) ∧ ∀ (nnn : Addr) (s : State),
    ∃ t, exec (.ldI nnn) s = .next t ∧ t.i.toNat = nnn.toNat ∧ (∀ a, t.readByte a = s.readByte a) ∧
      { t with i := s.i } = s)

/-- R144, R145: 7XNN adds NN to Vx modulo 256 with no flag, 8XY0 copies Vy to Vx; only Vx changes. The two words are decision D25. -/
def Obligations.ImmediateAddAndCopy : Prop :=
  (RowDecodes 0xF000#16 0x7000#16 (fun op => .addImm (fieldX op) (fieldNN op)) ∧ ∀ (x : Nibble) (nn : Byte) (s : State),
    ∃ t, exec (.addImm x nn) s = .next t ∧ (t.getV x).toNat = ((s.getV x).toNat + nn.toNat) % 256 ∧
      (∀ k, k ≠ x → t.getV k = s.getV k) ∧ (∀ a, t.readByte a = s.readByte a) ∧ { t with v := s.v } = s) ∧
  (RowDecodes 0xF00F#16 0x8000#16 (fun op => .ldReg (fieldX op) (fieldY op)) ∧ ∀ (x y : Nibble) (s : State),
    ∃ t, exec (.ldReg x y) s = .next t ∧ t.getV x = s.getV y ∧ (∀ k, k ≠ x → t.getV k = s.getV k) ∧
      (∀ a, t.readByte a = s.readByte a) ∧ { t with v := s.v } = s)

/-- R146, R147, R148: OR, AND and XOR, bit by bit; VF is not touched unless it is Vx; only Vx changes.
The words of rows the source does not print are decision D25. -/
def Obligations.LogicInstructions : Prop :=
  (RowDecodes 0xF00F#16 0x8001#16 (fun op => .orReg (fieldX op) (fieldY op)) ∧ ∀ (x y : Nibble) (s : State),
    ∃ t, exec (.orReg x y) s = .next t ∧
      (∀ n, (t.getV x).getLsbD n = ((s.getV x).getLsbD n || (s.getV y).getLsbD n)) ∧
      (∀ k, k ≠ x → t.getV k = s.getV k) ∧ (∀ a, t.readByte a = s.readByte a) ∧ { t with v := s.v } = s) ∧
  (RowDecodes 0xF00F#16 0x8002#16 (fun op => .andReg (fieldX op) (fieldY op)) ∧ ∀ (x y : Nibble) (s : State),
    ∃ t, exec (.andReg x y) s = .next t ∧
      (∀ n, (t.getV x).getLsbD n = ((s.getV x).getLsbD n && (s.getV y).getLsbD n)) ∧
      (∀ k, k ≠ x → t.getV k = s.getV k) ∧ (∀ a, t.readByte a = s.readByte a) ∧ { t with v := s.v } = s) ∧
  (RowDecodes 0xF00F#16 0x8003#16 (fun op => .xorReg (fieldX op) (fieldY op)) ∧ ∀ (x y : Nibble) (s : State),
    ∃ t, exec (.xorReg x y) s = .next t ∧
      (∀ n, (t.getV x).getLsbD n = ((s.getV x).getLsbD n != (s.getV y).getLsbD n)) ∧
      (∀ k, k ≠ x → t.getV k = s.getV k) ∧ (∀ a, t.readByte a = s.readByte a) ∧ { t with v := s.v } = s)

/-- R149: 8XY4. Vx is the sum modulo 256 unless x is VF; VF, written last, is 1 iff the unsigned sum of the old operands exceeds 255, else 0,
for every x and y, VF included; nothing else changes. -/
def Obligations.AddSetsCarry : Prop :=
  RowDecodes 0xF00F#16 0x8004#16 (fun op => .addReg (fieldX op) (fieldY op)) ∧ ∀ (x y : Nibble) (s : State),
    ∃ t, exec (.addReg x y) s = .next t ∧
      (x ≠ 0xF#4 → (t.getV x).toNat = ((s.getV x).toNat + (s.getV y).toNat) % 256) ∧
      t.getV 0xF#4 = (if 255 < (s.getV x).toNat + (s.getV y).toNat then 1#8 else 0#8) ∧
      (∀ k, k ≠ x → k ≠ 0xF#4 → t.getV k = s.getV k) ∧ (∀ a, t.readByte a = s.readByte a) ∧ { t with v := s.v } = s

/-- R150, R142: 8XY5. Vx is Vx - Vy modulo 256 unless x is VF; VF, written last, is 1 iff the old Vx > Vy, strictly, else 0; nothing
else changes. -/
def Obligations.SubSetsStrictFlag : Prop :=
  RowDecodes 0xF00F#16 0x8005#16 (fun op => .subReg (fieldX op) (fieldY op)) ∧ ∀ (x y : Nibble) (s : State),
    ∃ t, exec (.subReg x y) s = .next t ∧
      (x ≠ 0xF#4 → (t.getV x).toNat = ((s.getV x).toNat + 256 - (s.getV y).toNat) % 256) ∧
      t.getV 0xF#4 = (if (s.getV y).toNat < (s.getV x).toNat then 1#8 else 0#8) ∧
      (∀ k, k ≠ x → k ≠ 0xF#4 → t.getV k = s.getV k) ∧ (∀ a, t.readByte a = s.readByte a) ∧ { t with v := s.v } = s

/-- R152: 8XY7. Vx is Vy - Vx modulo 256 unless x is VF; VF is 1 iff the old Vy > Vx, strictly, else 0; nothing else changes. That VF is written
last is the spec's decision D4.
The word is decision D25. -/
def Obligations.SubnSetsStrictFlag : Prop :=
  RowDecodes 0xF00F#16 0x8007#16 (fun op => .subn (fieldX op) (fieldY op)) ∧ ∀ (x y : Nibble) (s : State),
    ∃ t, exec (.subn x y) s = .next t ∧
      (x ≠ 0xF#4 → (t.getV x).toNat = ((s.getV y).toNat + 256 - (s.getV x).toNat) % 256) ∧
      t.getV 0xF#4 = (if (s.getV x).toNat < (s.getV y).toNat then 1#8 else 0#8) ∧
      (∀ k, k ≠ x → k ≠ 0xF#4 → t.getV k = s.getV k) ∧ (∀ a, t.readByte a = s.readByte a) ∧ { t with v := s.v } = s

/-- R151, R153, R97: 8XY6 halves Vx and puts its old bit 0 in VF; 8XYE doubles Vx modulo 256 and puts its old bit 7 in VF; Y plays no part. That Vx is
what is shifted is decision D5, that VF is written last decision D4.
The words of rows the source does not print are decision D25. -/
def Obligations.ShiftsMoveTheOutgoingBit : Prop :=
  (RowDecodes 0xF00F#16 0x8006#16 (fun op => .shr (fieldX op) (fieldY op)) ∧ ∀ (x y : Nibble) (s : State),
    ∃ t, exec (.shr x y) s = .next t ∧ (x ≠ 0xF#4 → (t.getV x).toNat = (s.getV x).toNat / 2) ∧
      (t.getV 0xF#4).toNat = (s.getV x).toNat % 2 ∧
      (∀ k, k ≠ x → k ≠ 0xF#4 → t.getV k = s.getV k) ∧ (∀ a, t.readByte a = s.readByte a) ∧ { t with v := s.v } = s) ∧
  (RowDecodes 0xF00F#16 0x800E#16 (fun op => .shl (fieldX op) (fieldY op)) ∧ ∀ (x y : Nibble) (s : State),
    ∃ t, exec (.shl x y) s = .next t ∧ (x ≠ 0xF#4 → (t.getV x).toNat = (s.getV x).toNat * 2 % 256) ∧
      (t.getV 0xF#4).toNat = (s.getV x).toNat / 128 ∧
      (∀ k, k ≠ x → k ≠ 0xF#4 → t.getV k = s.getV k) ∧ (∀ a, t.readByte a = s.readByte a) ∧ { t with v := s.v } = s)

/-- R154: CXNN. Vx is the free byte of this draw masked by NN, and has no bit that NN lacks; no flag; only Vx and the model's draw counter change. It holds
for every value of the free byte (decision D11, log entry 1).
The word is decision D25. -/
def Obligations.RandomByteIsMasked : Prop :=
  RowDecodes 0xF000#16 0xC000#16 (fun op => .rnd (fieldX op) (fieldNN op)) ∧ ∀ (x : Nibble) (nn : Byte) (s : State),
    ∃ t, exec (.rnd x nn) s = .next t ∧ t.getV x = Config.randByte s.draws &&& nn ∧
      (∀ n, (t.getV x).getLsbD n = true → nn.getLsbD n = true) ∧ (∀ k, k ≠ x → t.getV k = s.getV k) ∧
      (∀ a, t.readByte a = s.readByte a) ∧ t.draws = s.draws + 1 ∧ { t with v := s.v, draws := s.draws } = s

/-- R22, R24: every instruction leaves every general register it does not list in the column "writes" of R22 unchanged; in particular VF. -/
def Obligations.OnlyListedRegistersAreWritten : Prop :=
  ∀ (i : Instr) (s t : State) (k : Nibble), exec i s = .next t → i.mayWrite k = false → t.getV k = s.getV k

/-! ## Index register and memory -/

/-- R172: FX29 sets I to 5 times the low nibble of Vx; it reads no memory and only I changes. The word is decision D25. -/
def Obligations.FontGlyphAddress : Prop :=
  RowDecodes 0xF0FF#16 0xF029#16 (fun op => .ldFont (fieldX op)) ∧ ∀ (x : Nibble) (s : State),
    ∃ t, exec (.ldFont x) s = .next t ∧ t.i.toNat = (s.getV x).toNat % 16 * 5 ∧ (∀ a, t.readByte a = s.readByte a) ∧
      { t with i := s.i } = s

/-- R171: FX1E. I is the sum modulo 65536, VF, written last, is 1 iff the unreduced sum of the old values exceeds 0xFFF, else 0; nothing else changes.
The reduction, the unreduced flag and the write order are decisions D18 and D4.
The word is decision D25. -/
def Obligations.IndexAddSetsOverflow : Prop :=
  RowDecodes 0xF0FF#16 0xF01E#16 (fun op => .addI (fieldX op)) ∧ ∀ (x : Nibble) (s : State),
    ∃ t, exec (.addI x) s = .next t ∧ t.i.toNat = (s.i.toNat + (s.getV x).toNat) % 65536 ∧
      t.getV 0xF#4 = (if 0xFFF < s.i.toNat + (s.getV x).toNat then 1#8 else 0#8) ∧
      (∀ k, k ≠ 0xF#4 → t.getV k = s.getV k) ∧ (∀ a, t.readByte a = s.readByte a) ∧ { t with i := s.i, v := s.v } = s

/-- R173: FX33. With I + 2 at most 4095 the three decimal digits of Vx are stored at I, I + 1, I + 2, and nothing else changes; otherwise
MemoryOutOfBounds (decision D3) and nothing is written.
The words of rows the source does not print are decision D25. -/
def Obligations.BcdStoresDigits : Prop :=
  RowDecodes 0xF0FF#16 0xF033#16 (fun op => .ldBcd (fieldX op)) ∧ ∀ (x : Nibble) (s : State),
    (s.MemCanonical → s.i.toNat + 2 ≤ 4095 → ∃ t, exec (.ldBcd x) s = .next t ∧
      (t.readByte s.i.toNat).toNat = (s.getV x).toNat / 100 ∧
      (t.readByte (s.i.toNat + 1)).toNat = (s.getV x).toNat / 10 % 10 ∧
      (t.readByte (s.i.toNat + 2)).toNat = (s.getV x).toNat % 10 ∧
      (∀ a, a < s.i.toNat ∨ s.i.toNat + 3 ≤ a → t.readByte a = s.readByte a) ∧ { t with mem := s.mem } = s) ∧
    (4095 < s.i.toNat + 2 → exec (.ldBcd x) s = .next { s with
      run := .halted .memoryOutOfBounds, trace := s.trace ++ [.fault (.memoryOutOfBounds s.i 3)] })

/-- R174: FX55. With I + X at most 4095 the registers V0..Vx are stored at I..I+X, and nothing else changes, I included; otherwise MemoryOutOfBounds
(decision D3) and nothing is written.
The word is decision D25. -/
def Obligations.StoreRegistersDumps : Prop :=
  RowDecodes 0xF0FF#16 0xF055#16 (fun op => .storeRegs (fieldX op)) ∧ ∀ (x : Nibble) (s : State),
    (s.MemCanonical → s.i.toNat + x.toNat ≤ 4095 → ∃ t, exec (.storeRegs x) s = .next t ∧
      (∀ k : Nibble, k.toNat ≤ x.toNat → t.readByte (s.i.toNat + k.toNat) = s.getV k) ∧
      (∀ a, a < s.i.toNat ∨ s.i.toNat + x.toNat + 1 ≤ a → t.readByte a = s.readByte a) ∧ { t with mem := s.mem } = s) ∧
    (4095 < s.i.toNat + x.toNat → exec (.storeRegs x) s = .next { s with
      run := .halted .memoryOutOfBounds, trace := s.trace ++ [.fault (.memoryOutOfBounds s.i (x.toNat + 1))] })

/-- R175: FX65. With I + X at most 4095 the registers V0..Vx are loaded from I..I+X, registers above Vx, memory and I unchanged; otherwise
MemoryOutOfBounds (decision D3) and nothing is loaded.
The word is decision D25. -/
def Obligations.LoadRegistersFills : Prop :=
  RowDecodes 0xF0FF#16 0xF065#16 (fun op => .loadRegs (fieldX op)) ∧ ∀ (x : Nibble) (s : State),
    (s.i.toNat + x.toNat ≤ 4095 → ∃ t, exec (.loadRegs x) s = .next t ∧
      (∀ k : Nibble, k.toNat ≤ x.toNat → t.getV k = s.readByte (s.i.toNat + k.toNat)) ∧
      (∀ k : Nibble, x.toNat < k.toNat → t.getV k = s.getV k) ∧
      (∀ a, t.readByte a = s.readByte a) ∧ { t with v := s.v } = s) ∧
    (4095 < s.i.toNat + x.toNat → exec (.loadRegs x) s = .next { s with
      run := .halted .memoryOutOfBounds, trace := s.trace ++ [.fault (.memoryOutOfBounds s.i (x.toNat + 1))] })

/-- R174, R175: what FX55 stores, FX65 loads back, whatever the registers became in between. -/
def Obligations.StoreThenLoadRestores : Prop :=
  ∀ (x : Nibble) (s : State) (v : Vector Byte 16), s.MemCanonical → s.i.toNat + x.toNat ≤ 4095 →
    ∃ t u, exec (.storeRegs x) s = .next t ∧ exec (.loadRegs x) { t with v := v } = .next u ∧
      ∀ k : Nibble, k.toNat ≤ x.toNat → u.getV k = s.getV k

/-- R77, R62: a store over the next instruction is seen by its fetch: the word fetched is the two registers stored there, the lower-numbered one
the high byte. -/
def Obligations.StoreIsSeenByNextFetch : Prop :=
  ∀ (x k l : Nibble) (s : State), s.MemCanonical → s.i.toNat + x.toNat ≤ 4095 → l.toNat = k.toNat + 1 →
    l.toNat ≤ x.toNat → s.pc.toNat = s.i.toNat + k.toNat →
    ∃ t u, exec (.storeRegs x) s = .next t ∧ t.fetch = .ok (s.getV k ++ s.getV l, u) ∧ u.pc = s.pc + 2#16

/-- Every action keeps memory in its canonical form, so equal memories are equal data (the model's own form, log entry 6, over R35, R79). -/
def Obligations.StepKeepsMemoryCanonical : Prop := ∀ s t : State, s.MemCanonical → step s = .next t → t.MemCanonical

/-- The invariant StepKeepsMemoryCanonical keeps holds at reset: memory lists nothing (log entry 6). -/
def Obligations.ResetMemoryCanonical : Prop := State.reset.MemCanonical

/-! ## Display -/

/-- R190: 00E0 sets every pixel false and changes nothing else, VF included. -/
def Obligations.ClsClearsEveryPixel : Prop :=
  decode 0x00E0#16 = .ok .cls ∧ ∀ s : State,
    ∃ t, exec .cls s = .next t ∧ (∀ px py, Display.pixel t.disp px py = false) ∧ (∀ a, t.readByte a = s.readByte a) ∧
      { t with disp := s.disp } = s

/-- R191, R192: DXYN. The pixels the sprite covers are toggled, all others stay; VF, written last, is 1 iff a covered pixel was set, else 0; nothing else
changes; N = 0 draws nothing and never faults; a range past 4095 is MemoryOutOfBounds and nothing is drawn. The fault, the bit order and the
write order are decisions D3, D20 and D4. -/
def Obligations.DrawTogglesTheSprite : Prop :=
  RowDecodes 0xF000#16 0xD000#16 (fun op => .drw (fieldX op) (fieldY op) (fieldN op)) ∧ ∀ (x y n : Nibble) (s : State),
    (n.toNat = 0 ∨ s.i.toNat + n.toNat - 1 ≤ 4095 → ∃ t, exec (.drw x y n) s = .next t ∧
      (∀ px py, (s.SpriteCovers x y n px py → Display.pixel t.disp px py = !Display.pixel s.disp px py) ∧
        (¬ s.SpriteCovers x y n px py → Display.pixel t.disp px py = Display.pixel s.disp px py)) ∧
      ((∃ px py, s.SpriteCovers x y n px py ∧ Display.pixel s.disp px py = true) → t.getV 0xF#4 = 1#8) ∧
      ((∀ px py, s.SpriteCovers x y n px py → Display.pixel s.disp px py = false) → t.getV 0xF#4 = 0#8) ∧
      (∀ k, k ≠ 0xF#4 → t.getV k = s.getV k) ∧ (∀ a, t.readByte a = s.readByte a) ∧
      { t with v := s.v, disp := s.disp } = s) ∧
    (0 < n.toNat → 4095 < s.i.toNat + n.toNat - 1 → exec (.drw x y n) s = .next { s with
      run := .halted .memoryOutOfBounds, trace := s.trace ++ [.fault (.memoryOutOfBounds s.i n.toNat)] })

/-- R192: two identical successive draws leave the display as it was; x and y are not VF, which the first draw writes. -/
def Obligations.DrawingTwiceRestores : Prop :=
  ∀ (x y n : Nibble) (s : State), x ≠ 0xF#4 → y ≠ 0xF#4 → n.toNat = 0 ∨ s.i.toNat + n.toNat - 1 ≤ 4095 →
    ∃ t u, exec (.drw x y n) s = .next t ∧ exec (.drw x y n) t = .next u ∧ u.disp = s.disp

/-! ## Timer and key instructions -/

/-- R200, R201, R202: FX07 reads DT into Vx, FX15 writes Vx to DT, FX18 writes Vx to ST without a signal or a change of TONE; nothing else changes.
The words of rows the source does not print are decision D25. -/
def Obligations.TimerRegisterMoves : Prop :=
  (RowDecodes 0xF0FF#16 0xF007#16 (fun op => .ldVxDt (fieldX op)) ∧ ∀ (x : Nibble) (s : State),
    ∃ t, exec (.ldVxDt x) s = .next t ∧ t.getV x = s.dt ∧ (∀ k, k ≠ x → t.getV k = s.getV k) ∧
      (∀ a, t.readByte a = s.readByte a) ∧ { t with v := s.v } = s) ∧
  (RowDecodes 0xF0FF#16 0xF015#16 (fun op => .ldDtVx (fieldX op)) ∧ ∀ (x : Nibble) (s : State),
    ∃ t, exec (.ldDtVx x) s = .next t ∧ t.dt = s.getV x ∧ (∀ a, t.readByte a = s.readByte a) ∧ { t with dt := s.dt } = s) ∧
  (RowDecodes 0xF0FF#16 0xF018#16 (fun op => .ldStVx (fieldX op)) ∧ ∀ (x : Nibble) (s : State),
    ∃ t, exec (.ldStVx x) s = .next t ∧ t.st = s.getV x ∧ t.tone = s.tone ∧ t.trace = s.trace ∧
      (∀ a, t.readByte a = s.readByte a) ∧ { t with st := s.st } = s)

/-- R205: FX0A. With no key pressed PC goes back by 2 and nothing else changes; otherwise Vx becomes the index of a pressed key, the only one if one is
pressed, and only Vx and the model's draw counter change. Which of several is the free value KEY_PICK (decision D9, log entry 2); the statement
holds for every choice.
The word is decision D25. -/
def Obligations.KeyWaitTakesAPressedKey : Prop :=
  RowDecodes 0xF0FF#16 0xF00A#16 (fun op => .ldVxKey (fieldX op)) ∧ ∀ (x : Nibble) (s : State),
    ((∀ k, s.keyDown k = false) → ∃ t, exec (.ldVxKey x) s = .next t ∧ t.pc = s.pc - 2#16 ∧ { t with pc := s.pc } = s) ∧
    ((∃ k, s.keyDown k = true) → ∃ t k, exec (.ldVxKey x) s = .next t ∧ s.keyDown k = true ∧
      (t.getV x).toNat = k.toNat ∧ (∀ j, j ≠ x → t.getV j = s.getV j) ∧ (∀ a, t.readByte a = s.readByte a) ∧
      { t with v := s.v, draws := s.draws } = s)

/-! ## The whole machine -/

/-- R44, R29 to R34, R37, R38: what each agent may change. No instruction changes a key, TONE or TIMER_ON, and only the instructions named change
the display, memory, SP, the stack, I, DT or ST; a tick changes DT, ST, TONE and the trace only. -/
def Obligations.AgentsKeepToTheirState : Prop :=
  (∀ (i : Instr) (s t : State), exec i s = .next t →
    t.keys = s.keys ∧ t.tone = s.tone ∧ t.timerOn = s.timerOn ∧
    (t.disp ≠ s.disp → i = .cls ∨ ∃ x y n, i = .drw x y n) ∧
    (t.mem ≠ s.mem → ∃ x, i = .ldBcd x ∨ i = .storeRegs x) ∧
    (t.sp ≠ s.sp → i = .ret ∨ ∃ nnn, i = .call nnn) ∧ (t.stack ≠ s.stack → ∃ nnn, i = .call nnn) ∧
    (t.i ≠ s.i → (∃ nnn, i = .ldI nnn) ∨ ∃ x, i = .addI x ∨ i = .ldFont x) ∧
    (t.dt ≠ s.dt → ∃ x, i = .ldDtVx x) ∧ (t.st ≠ s.st → ∃ x, i = .ldStVx x)) ∧
  (∀ s : State, { s.tick with dt := s.dt, st := s.st, tone := s.tone, trace := s.trace } = s)

/-- R33, R38: no instruction reads ST or TONE: two states that differ only there are taken by every instruction to states that differ only there, and
TONE stays what it was in each. -/
def Obligations.SoundStateIsNeverRead : Prop :=
  ∀ (i : Instr) (s : State) (st : Byte) (tone : Bool),
    ∃ t u, exec i s = .next t ∧ exec i { s with st := st, tone := tone } = .next u ∧
      { u with st := t.st, tone := t.tone } = t ∧ t.tone = s.tone ∧ u.tone = tone
end

