-- ==== Sys2Proof/Laws/Decode.lean ====
section
/-! SUPPORT. Laws of the encoding: what each field of a packed word reads, and that a word's two bytes give it back. -/

namespace Sys2Proof

theorem packA_toNat (op : Nibble) (nnn : Addr) : (packA op nnn).toNat = op.toNat * 4096 + nnn.toNat := by
  simp only [packA, BitVec.toNat_append]
  rw [(Nat.shiftLeft_add_eq_or_of_lt nnn.isLt _).symm, Nat.shiftLeft_eq]

theorem packXI_toNat (op x : Nibble) (nn : Byte) :
    (packXI op x nn).toNat = op.toNat * 4096 + x.toNat * 256 + nn.toNat := by
  simp only [packXI, BitVec.toNat_append]
  rw [(Nat.shiftLeft_add_eq_or_of_lt x.isLt _).symm, (Nat.shiftLeft_add_eq_or_of_lt nn.isLt _).symm]
  simp only [Nat.shiftLeft_eq]; omega

theorem nibbles_toNat (y n : Nibble) : (y ++ n : BitVec (4 + 4)).toNat = y.toNat * 16 + n.toNat := by
  rw [BitVec.toNat_append, (Nat.shiftLeft_add_eq_or_of_lt n.isLt _).symm, Nat.shiftLeft_eq]

theorem packXY_toNat (op x y n : Nibble) :
    (packXY op x y n).toNat = op.toNat * 4096 + x.toNat * 256 + y.toNat * 16 + n.toNat := by
  have := nibbles_toNat y n
  unfold packXY; rw [packXI_toNat]; omega

/-! ## Fields as numbers -/

theorem fieldOp_toNat (op : Word) : (fieldOp op).toNat = op.toNat / 4096 := by
  have := op.isLt
  simp only [fieldOp, BitVec.extractLsb'_toNat, Nat.shiftRight_eq_div_pow]; omega
theorem fieldX_toNat (op : Word) : (fieldX op).toNat = op.toNat / 256 % 16 := by
  simp only [fieldX, BitVec.extractLsb'_toNat, Nat.shiftRight_eq_div_pow]
theorem fieldY_toNat (op : Word) : (fieldY op).toNat = op.toNat / 16 % 16 := by
  simp only [fieldY, BitVec.extractLsb'_toNat, Nat.shiftRight_eq_div_pow]
theorem fieldN_toNat (op : Word) : (fieldN op).toNat = op.toNat % 16 := by
  simp only [fieldN, BitVec.extractLsb'_toNat, Nat.shiftRight_eq_div_pow, Nat.pow_zero, Nat.div_one]
theorem fieldNN_toNat (op : Word) : (fieldNN op).toNat = op.toNat % 256 := by
  simp only [fieldNN, BitVec.extractLsb'_toNat, Nat.shiftRight_eq_div_pow, Nat.pow_zero, Nat.div_one]
theorem fieldNNN_toNat (op : Word) : (fieldNNN op).toNat = op.toNat % 4096 := by
  simp only [fieldNNN, BitVec.extractLsb'_toNat, Nat.shiftRight_eq_div_pow, Nat.pow_zero, Nat.div_one]

/-! ## Fields of packed words -/

@[simp] theorem fieldOp_packA (op : Nibble) (nnn : Addr) : fieldOp (packA op nnn) = op := by
  have := nnn.isLt
  apply BitVec.eq_of_toNat_eq; rw [fieldOp_toNat, packA_toNat]; omega
@[simp] theorem fieldNNN_packA (op : Nibble) (nnn : Addr) : fieldNNN (packA op nnn) = nnn := by
  have := nnn.isLt
  apply BitVec.eq_of_toNat_eq; rw [fieldNNN_toNat, packA_toNat]; omega
@[simp] theorem fieldOp_packXI (op x : Nibble) (nn : Byte) : fieldOp (packXI op x nn) = op := by
  have := nn.isLt; have := x.isLt
  apply BitVec.eq_of_toNat_eq; rw [fieldOp_toNat, packXI_toNat]; omega
@[simp] theorem fieldX_packXI (op x : Nibble) (nn : Byte) : fieldX (packXI op x nn) = x := by
  have := nn.isLt; have := x.isLt
  apply BitVec.eq_of_toNat_eq; rw [fieldX_toNat, packXI_toNat]; omega
@[simp] theorem fieldNN_packXI (op x : Nibble) (nn : Byte) : fieldNN (packXI op x nn) = nn := by
  have := nn.isLt; have := x.isLt
  apply BitVec.eq_of_toNat_eq; rw [fieldNN_toNat, packXI_toNat]; omega
@[simp] theorem fieldOp_packXY (op x y n : Nibble) : fieldOp (packXY op x y n) = op := fieldOp_packXI op x _
@[simp] theorem fieldX_packXY (op x y n : Nibble) : fieldX (packXY op x y n) = x := fieldX_packXI op x _
@[simp] theorem fieldY_packXY (op x y n : Nibble) : fieldY (packXY op x y n) = y := by
  have := y.isLt; have := n.isLt
  apply BitVec.eq_of_toNat_eq; rw [fieldY_toNat, packXY_toNat]; omega
@[simp] theorem fieldN_packXY (op x y n : Nibble) : fieldN (packXY op x y n) = n := by
  have := y.isLt; have := n.isLt
  apply BitVec.eq_of_toNat_eq; rw [fieldN_toNat, packXY_toNat]; omega

/-! ## Words from their fields -/

theorem packA_fields (op : Word) : packA (fieldOp op) (fieldNNN op) = op := by
  apply BitVec.eq_of_toNat_eq; rw [packA_toNat, fieldOp_toNat, fieldNNN_toNat]; omega
theorem packXI_fields (op : Word) : packXI (fieldOp op) (fieldX op) (fieldNN op) = op := by
  apply BitVec.eq_of_toNat_eq; rw [packXI_toNat, fieldOp_toNat, fieldX_toNat, fieldNN_toNat]; omega
theorem packXY_fields (op : Word) : packXY (fieldOp op) (fieldX op) (fieldY op) (fieldN op) = op := by
  apply BitVec.eq_of_toNat_eq
  rw [packXY_toNat, fieldOp_toNat, fieldX_toNat, fieldY_toNat, fieldN_toNat]; omega

/-! ## The masks of R95 -/

theorem packXI_and (a b x z : Nibble) (m n : Byte) :
    packXI a x m &&& packXI b z n = packXI (a &&& b) (x &&& z) (m &&& n) :=
  (BitVec.and_append (x₁ := a ++ x) (x₂ := b ++ z) (y₁ := m) (y₂ := n)).trans
    (congrArg (· ++ (m &&& n)) (BitVec.and_append (x₁ := a) (x₂ := b) (y₁ := x) (y₂ := z)))

theorem packXY_and (a b x z y w m n : Nibble) :
    packXY a x y m &&& packXY b z w n = packXY (a &&& b) (x &&& z) (y &&& w) (m &&& n) := by
  rw [packXY, packXY, packXI_and]
  exact congrArg (packXI _ _) (BitVec.and_append (x₁ := y) (x₂ := w) (y₁ := m) (y₂ := n))

theorem packA_and (a b : Nibble) (m n : Addr) : packA a m &&& packA b n = packA (a &&& b) (m &&& n) :=
  BitVec.and_append (x₁ := a) (x₂ := b) (y₁ := m) (y₂ := n)

/-- The mask of the rows that fix the high nibble. -/
theorem and_maskHigh (op : Word) : op &&& 0xF000#16 = packA (fieldOp op) 0 := by
  conv_lhs => rw [← packA_fields op, show 0xF000#16 = packA (BitVec.allOnes 4) 0 by decide, packA_and]
  simp only [BitVec.and_allOnes, show ∀ w (b : BitVec w), b &&& (0 : BitVec w) = 0 from fun _ _ => BitVec.and_zero]

/-- The mask of the rows that fix the high and the low nibble. -/
theorem and_maskHighLow (op : Word) : op &&& 0xF00F#16 = packXY (fieldOp op) 0 0 (fieldN op) := by
  conv_lhs => rw [← packXY_fields op,
    show 0xF00F#16 = packXY (BitVec.allOnes 4) 0 0 (BitVec.allOnes 4) by decide, packXY_and]
  simp only [BitVec.and_allOnes, show ∀ w (b : BitVec w), b &&& (0 : BitVec w) = 0 from fun _ _ => BitVec.and_zero]

/-- The mask of the rows that fix the high nibble and the low byte. -/
theorem and_maskHighByte (op : Word) : op &&& 0xF0FF#16 = packXI (fieldOp op) 0 (fieldNN op) := by
  conv_lhs => rw [← packXI_fields op,
    show 0xF0FF#16 = packXI (BitVec.allOnes 4) 0 (BitVec.allOnes 8) by decide, packXI_and]
  simp only [BitVec.and_allOnes, show ∀ w (b : BitVec w), b &&& (0 : BitVec w) = 0 from fun _ _ => BitVec.and_zero]

/-- The mask of the rows that fix the whole word. -/
theorem and_maskAll (op : Word) : op &&& 0xFFFF#16 = op := by
  rw [show 0xFFFF#16 = BitVec.allOnes 16 by decide, BitVec.and_allOnes]

/-! ## Bytes of words -/

@[simp] theorem wordOfBytes_bytes (op : Word) : wordOfBytes (highByte op) (lowByte op) = op := by
  apply BitVec.eq_of_toNat_eq
  simp only [wordOfBytes, highByte, lowByte]
  rw [BitVec.toNat_append, (Nat.shiftLeft_add_eq_or_of_lt (BitVec.isLt _) _).symm]
  simp only [BitVec.extractLsb'_toNat, Nat.shiftRight_eq_div_pow, Nat.shiftLeft_eq]
  have := op.isLt; omega

@[simp] theorem highByte_wordOfBytes (hi lo : Byte) : highByte (wordOfBytes hi lo) = hi := by
  apply BitVec.eq_of_toNat_eq
  simp only [wordOfBytes, highByte, BitVec.extractLsb'_toNat, Nat.shiftRight_eq_div_pow]
  rw [BitVec.toNat_append, (Nat.shiftLeft_add_eq_or_of_lt (BitVec.isLt _) _).symm, Nat.shiftLeft_eq]
  have := hi.isLt; have := lo.isLt; omega

@[simp] theorem lowByte_wordOfBytes (hi lo : Byte) : lowByte (wordOfBytes hi lo) = lo := by
  apply BitVec.eq_of_toNat_eq
  simp only [wordOfBytes, lowByte, BitVec.extractLsb'_toNat, Nat.shiftRight_eq_div_pow, Nat.pow_zero, Nat.div_one]
  rw [BitVec.toNat_append, (Nat.shiftLeft_add_eq_or_of_lt (BitVec.isLt _) _).symm, Nat.shiftLeft_eq]
  have := hi.isLt; have := lo.isLt; omega

end Sys2Proof
end

