-- ==== Sys2Proof/Laws/Registers.lean ====
section
/-! SUPPORT. Laws of the general registers, the call stack and the choice of a key. -/

namespace Sys2Proof.Machine

/-- A register read after a register write. -/
theorem State.getV_setV (s : State) (x k : Nibble) (b : Byte) :
    (s.setV x b).getV k = if k = x then b else s.getV k := by
  simp only [State.getV, State.setV, Vector.getElem_set]
  by_cases h : k = x
  · simp [h]
  · rw [if_neg h, if_neg (fun e => h (BitVec.eq_of_toNat_eq e.symm))]

@[simp] theorem State.getV_setV_self (s : State) (x : Nibble) (b : Byte) : (s.setV x b).getV x = b := by
  simp [State.getV_setV]

theorem State.getV_setV_of_ne (s : State) {x k : Nibble} (b : Byte) (h : k ≠ x) : (s.setV x b).getV k = s.getV k := by
  simp [State.getV_setV, h]

/-- A result and its flag (R141): VF holds the flag, x the result unless x is VF, every other register is as before. -/
theorem State.getV_setResultFlag (s : State) (x k : Nibble) (r f : Byte) :
    (s.setResultFlag x r f).getV k = if k = vf then f else if k = x then r else s.getV k := by
  simp [State.setResultFlag, State.getV_setV]

/-- A result and its flag change general registers only. -/
theorem State.setResultFlag_eq (s : State) (x : Nibble) (r f : Byte) :
    s.setResultFlag x r f = { s with v := (s.setResultFlag x r f).v } := rfl

/-- A run of register writes changes general registers only. -/
theorem State.setVs_eq (s : State) (k : Nat) (bs : List Byte) : s.setVs k bs = { s with v := (s.setVs k bs).v } := by
  induction bs generalizing s k with
  | nil => rfl
  | cons b rest ih => simp only [State.setVs]; rw [ih]

/-- After a run of register writes from number k, register j holds the byte at its place in the run, or what it held. -/
theorem State.getV_setVs (s : State) (k : Nat) (bs : List Byte) (j : Nibble) :
    (s.setVs k bs).getV j =
      if k ≤ j.toNat ∧ j.toNat < k + bs.length then bs.getD (j.toNat - k) 0 else s.getV j := by
  induction bs generalizing s k with
  | nil => simp only [State.setVs, List.length_nil]; rw [if_neg (by omega)]
  | cons b rest ih =>
    simp only [State.setVs, ih, List.length_cons]
    by_cases hin : k + 1 ≤ j.toNat ∧ j.toNat < k + 1 + rest.length
    · rw [if_pos hin, if_pos (by omega)]
      obtain ⟨n, hn⟩ : ∃ n, j.toNat - k = n + 1 := ⟨j.toNat - k - 1, by omega⟩
      rw [hn, show j.toNat - (k + 1) = n by omega]; simp
    · rw [if_neg hin]
      by_cases hk : k = j.toNat
      · rw [if_pos (by omega), ← hk]; simp [State.getV, hk]
      · rw [if_neg (by omega)]
        simp [State.getV, hk]

/-! ## The call stack -/

theorem State.push_eq_none {s : State} {w : Word} : s.push w = none ↔ s.sp.val = 16 := by
  unfold State.push; have := s.sp.isLt; split <;> simp <;> omega

/-- Everything a push that succeeds does (R123). -/
theorem State.push_eq_some {s t : State} {w : Word} (h : s.push w = some t) :
    ∃ hs : s.sp.val < 16, t.sp.val = s.sp.val + 1 ∧ t.stack = s.stack.set s.sp.val w hs ∧
      t = { s with stack := t.stack, sp := t.sp } := by
  unfold State.push at h
  split at h
  · cases h; exact ⟨‹_›, rfl, rfl, rfl⟩
  · cases h

theorem State.pop_eq_none {s : State} : s.pop = none ↔ s.sp.val = 0 := by
  unfold State.pop; split <;> simp_all

/-- Everything a pop that succeeds does (R121). -/
theorem State.pop_eq_some {s t : State} {w : Word} (h : s.pop = some (w, t)) :
    ∃ hs : s.sp.val - 1 < 16, s.sp.val ≠ 0 ∧ t.sp.val = s.sp.val - 1 ∧ w = s.stack[s.sp.val - 1] ∧
      t = { s with sp := t.sp } := by
  unfold State.pop at h
  split at h
  · cases h
  · rename_i n hn
    simp only [Option.some.injEq, Prod.mk.injEq] at h
    obtain ⟨rfl, rfl⟩ := h
    have := s.sp.isLt
    exact ⟨by omega, by omega, by simp [hn], by simp [hn], rfl⟩

/-! ## Keys -/

theorem mem_allKeys (k : Nibble) : k ∈ allKeys := by
  simp only [allKeys, List.mem_map, List.mem_range]
  exact ⟨k.toNat, k.isLt, by simp⟩

/-- The pressed keys are exactly the keys that are down (R205). -/
theorem State.mem_pressedKeys {s : State} {k : Nibble} : k ∈ s.pressedKeys ↔ s.keyDown k = true := by
  simp [State.pressedKeys, mem_allKeys]

/-- The choice takes one of the keys it is given, whatever the free value is (R205). -/
theorem chooseKey_mem (draw : Nat) (k : Nibble) (rest : List Nibble) : chooseKey draw k rest ∈ k :: rest := by
  unfold chooseKey
  split
  · simp
  · have h : Config.keyPick draw % (k :: rest).length < (k :: rest).length := Nat.mod_lt _ (by simp)
    rw [List.getD_eq_getElem _ _ h]
    exact List.getElem_mem h

end Sys2Proof.Machine
end

