-- ==== Sys2Proof/Laws/Draw.lean ====
section
/-! SUPPORT. Laws of single pixels. -/

namespace Sys2Proof.Machine

/-- A pixel read after a pixel write. -/
theorem Display.pixel_setPixel (d : Display) (px qx : Fin 64) (py qy : Fin 32) (b : Bool) :
    Display.pixel (Display.setPixel d px py b) qx qy = if qx = px ∧ qy = py then b else Display.pixel d qx qy := by
  simp only [Display.pixel, Display.setPixel, Fin.getElem_fin, Vector.getElem_set, Fin.ext_iff]
  by_cases hx : qx.val = px.val
  · simp only [hx, true_and, if_true]
    by_cases hy : qy.val = py.val
    · simp [hy]
    · simp [hy, Vector.getElem_set_ne _ _ (Ne.symm hy)]
  · simp [hx, Ne.symm hx]

@[simp] theorem Display.pixel_clear (px : Fin 64) (py : Fin 32) : Display.pixel clearDisplay px py = false := by
  simp [Display.pixel, clearDisplay]

/-- Two displays with the same pixels are the same. -/
theorem Display.ext_pixel {d e : Display} (h : ∀ px py, Display.pixel d px py = Display.pixel e px py) : d = e := by
  apply Vector.ext; intro x hx
  apply Vector.ext; intro y hy
  exact h ⟨x, hx⟩ ⟨y, hy⟩

end Sys2Proof.Machine
end

