-- ==== Sys2Proof/Laws/Memory.lean ====
section
/-! SUPPORT. Laws of memory: read after write, the canonical form, and what runs of writes and reads do. -/

namespace Sys2Proof.Machine

theorem Memory.read_cons (a : Nat) (b : Byte) (m : Memory) (k : Nat) (hm : a ∉ m.map Prod.fst) :
    (Memory.cons a b m).read k = if k = a then b else m.read k := by
  unfold Memory.cons
  by_cases hb : b = unlistedByte a
  · simp only [hb, if_true]
    split
    · subst k
      induction m with
      | nil => rfl
      | cons c rest ih =>
        simp only [List.map_cons, List.mem_cons, not_or] at hm
        simp [Memory.read, hm.1, ih hm.2]
    · rfl
  · simp [hb, Memory.read]

/-- Addresses below the first one of a rising memory are not listed. -/
theorem Memory.not_listed_of_lt {a k : Nat} {c : Byte} {rest : Memory} (h : a < k)
    (hs : ((k, c) :: rest).Pairwise (fun c d => c.1 < d.1)) : a ∉ ((k, c) :: rest).map Prod.fst := by
  rw [List.pairwise_cons] at hs
  simp only [List.map_cons, List.mem_cons, List.mem_map, not_or, not_exists, not_and]
  exact ⟨by omega, fun d hd e => by have := hs.1 d hd; omega⟩

/-- A read after a write gives the byte written there and what was read before elsewhere. -/
theorem Memory.read_write (m : Memory) (a k : Nat) (b : Byte) (hm : m.Pairwise (fun c d => c.1 < d.1)) :
    (m.write a b).read k = if k = a then b else m.read k := by
  induction m with
  | nil => simpa [Memory.write] using Memory.read_cons a b [] k (by simp)
  | cons c rest ih =>
    obtain ⟨j, c⟩ := c
    have hr := (List.pairwise_cons.1 hm)
    simp only [Memory.write]
    split
    · exact Memory.read_cons a b _ k (Memory.not_listed_of_lt ‹_› hm)
    · split
      · subst a
        rw [Memory.read_cons j b rest k]
        · by_cases hk : k = j <;> simp [Memory.read, hk]
        · simp only [List.mem_map, not_exists, not_and]
          exact fun d hd e => by have := hr.1 d hd; simp at this; omega
      · simp only [Memory.read, ih hr.2]
        split <;> split <;> simp_all

/-- Every cell of a written memory is the written one or an old one. -/
theorem Memory.mem_write {m : Memory} {a : Nat} {b : Byte} {c : Host.Cell} (h : c ∈ m.write a b) :
    (c = (a, b) ∧ b ≠ unlistedByte a) ∨ c ∈ m := by
  induction m with
  | nil => simp only [Memory.write, Memory.cons] at h; split at h <;> simp_all
  | cons d rest ih =>
    obtain ⟨k, d⟩ := d
    simp only [Memory.write, Memory.cons] at h
    split at h
    · split at h <;> simp_all
    · split at h
      · split at h <;> simp_all
        rcases h with h | h <;> simp_all
      · simp only [List.mem_cons] at h ⊢
        rcases h with h | h
        · exact .inr (.inl h)
        · rcases ih h with h | h
          · exact .inl h
          · exact .inr (.inr h)

theorem Memory.pairwise_write (m : Memory) (a : Nat) (b : Byte) (hm : m.Pairwise (fun c d => c.1 < d.1)) :
    (m.write a b).Pairwise (fun c d => c.1 < d.1) := by
  induction m with
  | nil => simp only [Memory.write, Memory.cons]; split <;> simp
  | cons c rest ih =>
    obtain ⟨k, c⟩ := c
    have hr := List.pairwise_cons.1 hm
    simp only [Memory.write, Memory.cons]
    split
    · split
      · exact hm
      · refine List.pairwise_cons.2 ⟨fun d hd => ?_, hm⟩
        rcases List.mem_cons.1 hd with h | h
        · subst h; assumption
        · have := hr.1 d h; simp at this; simp; omega
    · split
      · subst a
        split
        · exact hr.2
        · exact List.pairwise_cons.2 ⟨hr.1, hr.2⟩
      · refine List.pairwise_cons.2 ⟨fun d hd => ?_, ih hr.2⟩
        rcases Memory.mem_write hd with h | h
        · rw [h.1]; simp; omega
        · exact hr.1 d h

/-- A write at an existing address keeps the canonical form. -/
theorem Memory.wf_write {m : Memory} {a : Nat} {b : Byte} (ha : a < Config.memSize) (hm : m.wf) : (m.write a b).wf := by
  refine ⟨Memory.pairwise_write m a b hm.1, fun c hc => ?_⟩
  rcases Memory.mem_write hc with h | h
  · rw [h.1]; exact ⟨ha, h.2⟩
  · exact hm.2 c h

theorem Memory.wf_nil : Memory.wf [] := by decide

/-! ## One byte of the state -/

/-- A byte write changes memory only. -/
theorem State.writeByte_eq (s : State) (a : Nat) (b : Byte) :
    s.writeByte a b = { s with mem := (s.writeByte a b).mem } := by
  unfold State.writeByte; split <;> rfl

theorem State.wf_writeByte {s : State} (a : Nat) (b : Byte) (h : s.mem.wf) : (s.writeByte a b).mem.wf := by
  unfold State.writeByte; split
  · exact Memory.wf_write ‹_› h
  · exact h

theorem State.readByte_writeByte {s : State} {a k : Nat} {b : Byte} (h : s.mem.wf) (ha : a < Config.memSize) :
    (s.writeByte a b).readByte k = if k = a then b else s.readByte k := by
  simp only [State.readByte, State.writeByte, ha, if_true]
  exact Memory.read_write s.mem a k b h.1

/-! ## Runs of bytes -/

/-- A run of writes changes memory only. -/
theorem State.writeBytes_eq (s : State) (a : Nat) (bs : List Byte) :
    s.writeBytes a bs = { s with mem := (s.writeBytes a bs).mem } := by
  induction bs generalizing s a with
  | nil => rfl
  | cons b rest ih => simp only [State.writeBytes]; rw [ih, State.writeByte_eq]

theorem State.wf_writeBytes {s : State} (a : Nat) (bs : List Byte) (h : s.mem.wf) : (s.writeBytes a bs).mem.wf := by
  induction bs generalizing s a with
  | nil => exact h
  | cons b rest ih => exact ih (a + 1) (State.wf_writeByte a b h)

/-- After a run of writes inside memory, each address of the run reads the byte written to it and every other address reads
as before. -/
theorem State.readByte_writeBytes {s : State} {a k : Nat} {bs : List Byte} (h : s.mem.wf)
    (ha : a + bs.length ≤ Config.memSize) :
    (s.writeBytes a bs).readByte k = if a ≤ k ∧ k < a + bs.length then bs.getD (k - a) 0 else s.readByte k := by
  induction bs generalizing s a with
  | nil => simp only [State.writeBytes, List.length_nil]; rw [if_neg (by omega)]
  | cons b rest ih =>
    simp only [List.length_cons] at ha
    rw [State.writeBytes, ih (State.wf_writeByte a b h) (by omega), State.readByte_writeByte h (by omega)]
    simp only [List.length_cons]
    by_cases hk : k = a
    · subst k; rw [if_neg (by omega), if_pos rfl, if_pos (by omega)]; simp
    · by_cases hin : a + 1 ≤ k ∧ k < a + 1 + rest.length
      · rw [if_pos hin, if_pos (by omega)]
        obtain ⟨n, hn⟩ : ∃ n, k - a = n + 1 := ⟨k - a - 1, by omega⟩
        rw [hn, show k - (a + 1) = n by omega]; simp
      · rw [if_neg hin, if_neg hk, if_neg (by omega)]

@[simp] theorem State.length_readBytes (s : State) (a n : Nat) : (s.readBytes a n).length = n := by
  induction n generalizing a with
  | zero => rfl
  | succ n ih => simp [State.readBytes, ih]

theorem State.getD_readBytes (s : State) (a n k : Nat) (h : k < n) :
    (s.readBytes a n).getD k 0 = s.readByte (a + k) := by
  induction n generalizing a k with
  | zero => omega
  | succ n ih =>
    cases k with
    | zero => simp [State.readBytes]
    | succ k => simpa [State.readBytes, Nat.add_assoc, Nat.add_comm 1 k] using ih (a + 1) k (by omega)

/-! ## The range check (R66) -/

theorem inRange_eq_true {base : Word} {count : Nat} :
    inRange base count = true ↔ count = 0 ∨ base.toNat + count ≤ 4096 := by
  simp only [inRange, Bool.or_eq_true, beq_iff_eq, decide_eq_true_eq]; omega

theorem inRange_eq_false {base : Word} {count : Nat} :
    inRange base count = false ↔ 0 < count ∧ 4096 < base.toNat + count := by
  simp only [inRange, Bool.or_eq_false_iff, beq_eq_false_iff_ne, decide_eq_false_iff_not]; omega

/-- Everything the range check can do: the effect, or the fault and nothing else. -/
theorem State.checkRange_cases (s : State) (count : Nat) (effect : State) :
    (inRange s.i count = true ∧ s.checkRange count effect = effect) ∨
    (inRange s.i count = false ∧ s.checkRange count effect = s.raise (.memoryOutOfBounds s.i count)) := by
  unfold State.checkRange; cases inRange s.i count <;> simp

end Sys2Proof.Machine
end

