-- ==== Sys2Proof/Laws/Exec.lean ====
section
/-! SUPPORT. What the operations the meanings share can do, one lemma each: the words of a row by its mask, the skip, the
key and glyph selected by a register, the checked range, the sprite, the tick, and the host's writes of memory. -/

namespace Sys2Proof

/-! ## The words of a row -/

/-- A word a row with mask F000 accepts has the row's high nibble. -/
theorem fieldOp_of_maskHigh {op v : Word} (h : op &&& 0xF000#16 = v) : fieldOp op = fieldOp v := by
  rw [and_maskHigh] at h; rw [← h]; simp

/-- A word a row with mask F00F accepts has the row's high and low nibble. -/
theorem fields_of_maskHighLow {op v : Word} (h : op &&& 0xF00F#16 = v) :
    fieldOp op = fieldOp v ∧ fieldN op = fieldN v := by
  rw [and_maskHighLow] at h; rw [← h]; simp

/-- A word a row with mask F0FF accepts has the row's high nibble and low byte. -/
theorem fields_of_maskHighByte {op v : Word} (h : op &&& 0xF0FF#16 = v) :
    fieldOp op = fieldOp v ∧ fieldNN op = fieldNN v := by
  rw [and_maskHighByte] at h; rw [← h]; simp

end Sys2Proof

namespace Sys2Proof.Machine

/-! ## Operands -/

/-- The key a register selects is its low nibble. -/
theorem keyIndex_toNat (b : Byte) : (keyIndex b).toNat = b.toNat % 16 := by
  simp only [keyIndex, BitVec.toNat_setWidth, BitVec.toNat_and]
  rw [show (0x0F#8).toNat = 2 ^ 4 - 1 from rfl, Nat.and_two_pow_sub_one_eq_mod]; omega

/-- The glyph a register selects lies at 5 times its low nibble. -/
theorem glyphAddr_toNat (b : Byte) : (glyphAddr b).toNat = b.toNat % 16 * 5 := by
  simp only [glyphAddr, BitVec.toNat_and, BitVec.toNat_ofNat]
  rw [show (15 % 2 ^ 8 : Nat) = 2 ^ 4 - 1 from rfl, Nat.and_two_pow_sub_one_eq_mod]; omega

/-- The bytes FX55 stores are as many as it stores registers. -/
theorem State.length_regsUpTo (s : State) (x : Nibble) : (s.regsUpTo x).length = x.toNat + 1 := by
  have := x.isLt; simp [State.regsUpTo]; omega

/-- The k-th byte FX55 stores is register k. -/
theorem State.getD_regsUpTo (s : State) (x k : Nibble) (h : k.toNat ≤ x.toNat) :
    (s.regsUpTo x).getD k.toNat 0 = s.getV k := by
  have := k.isLt
  simp [State.regsUpTo, State.getV, List.getD, Nat.lt_succ_of_le h, this]

/-- No key is pressed exactly when every key is up. -/
theorem State.pressedKeys_eq_nil {s : State} : s.pressedKeys = [] ↔ ∀ k, s.keyDown k = false := by
  simp [List.eq_nil_iff_forall_not_mem, State.mem_pressedKeys]

/-! ## Shared effects -/

theorem State.skipIf_pc (s : State) (c : Bool) : (s.skipIf c).pc = if c then s.pc + 2#16 else s.pc := by
  unfold State.skipIf; split <;> rfl

/-- A skip changes nothing but PC. -/
theorem State.skipIf_eq (s : State) (c : Bool) : s.skipIf c = { s with pc := (s.skipIf c).pc } := by
  unfold State.skipIf; split <;> rfl

/-- The sprite's effect is on the display and VF only. -/
theorem State.drawSprite_eq (s : State) (x0 y0 : Byte) (sprite : List Byte) :
    s.drawSprite x0 y0 sprite =
      { s with v := (s.drawSprite x0 y0 sprite).v, disp := (s.drawSprite x0 y0 sprite).disp } := rfl

theorem State.getV_drawSprite (s : State) (x0 y0 : Byte) (sprite : List Byte) (k : Nibble) :
    (s.drawSprite x0 y0 sprite).getV k =
      if k = vf then flagByte (drawRows x0 y0 0 sprite (s.disp, false)).2 else s.getV k := by
  unfold State.drawSprite; rw [State.getV_setV]; rfl

/-- A range that passes runs the effect. -/
theorem State.checkRange_of_inRange {s : State} {count : Nat} (effect : State) (h : inRange s.i count = true) :
    s.checkRange count effect = effect := by
  unfold State.checkRange; rw [if_pos h]

/-- A range that fails raises MemoryOutOfBounds. -/
theorem State.checkRange_of_outside {s : State} {count : Nat} (effect : State) (h : inRange s.i count = false) :
    s.checkRange count effect = s.raise (.memoryOutOfBounds s.i count) := by
  unfold State.checkRange; rw [if_neg (by simp [h])]

/-- A tick's effect is on the timers, TONE and the trace only. -/
theorem State.tick_eq (s : State) :
    s.tick = { s with dt := s.tick.dt, st := s.tick.st, tone := s.tick.tone, trace := s.tick.trace } := by
  unfold State.tick State.tickStop State.tickSound State.tickStart State.tickDelay
  split_ifs <;> rfl

/-- Init's effect, said through reset: memory is what the font's bytes make of it, the model's agenda and counter stay. -/
theorem State.init_eq (s : State) (font : Font) :
    s.init font = { State.reset with agenda := s.agenda, draws := s.draws, mem := (s.init font).mem } := by
  rw [State.init, State.writeBytes_eq]

/-- Everything Shutdown does: TIMER_ON is cleared, and RUN becomes Stopped unless it is Halted. -/
theorem State.shutdown_cases (s : State) :
    (∃ f, s.run = .halted f ∧ s.shutdown = { s with timerOn := false }) ∨
    ((∀ f, s.run ≠ .halted f) ∧ s.shutdown = { s with run := .stopped, timerOn := false }) := by
  unfold State.shutdown
  cases h : s.run with
  | halted f => exact .inl ⟨f, rfl, by rw [RunState.afterShutdown, ← h]⟩
  | running => exact .inr ⟨fun f e => (by cases e), rfl⟩
  | stopped => exact .inr ⟨fun f e => (by cases e), rfl⟩

/-- LoadProgram's effect is on memory and the answer only. -/
theorem State.loadProgram_eq (s : State) (bytes : List Byte) :
    s.loadProgram bytes = { s with mem := (s.loadProgram bytes).mem, reply := (s.loadProgram bytes).reply } := by
  unfold State.loadProgram
  split
  · rw [State.writeBytes_eq]
  · rfl

end Sys2Proof.Machine
end

