-- ==== Sys2Proof/Laws/PerInstr.lean ====
section
/-! SUPPORT. Statements per instruction about its syntax: its operands are in their ranges (spec/30_encoding.md R92), its row is a
row of the opcode map, and every term of the instruction encodes to a word that row accepts (R95). -/

namespace Sys2Proof.Laws.EncodingInRow

/-- The instruction is well-formed, its row is in the table, and its word is one the row accepts. -/
def Statement (i : Instr) : Prop :=
  i.wellFormed = true ∧ i.row ∈ opcodeTable ∧ i.row.accepts (encode i) = true

theorem of_row {i : Instr} (j : Instr) (hj : j ∈ rowInstrs) (hr : i.row = j.row)
    (h : encode i &&& i.row.mask = i.row.value) : Statement i :=
  ⟨i.wellFormed_all, hr ▸ List.mem_map_of_mem hj, beq_iff_eq.2 h⟩

theorem packA_high (op : Nibble) (nnn : Addr) : packA op nnn &&& 0xF000#16 = packA op 0 := by
  rw [and_maskHigh, fieldOp_packA]

theorem packXI_high (op x : Nibble) (nn : Byte) : packXI op x nn &&& 0xF000#16 = packA op 0 := by
  rw [and_maskHigh, fieldOp_packXI]

theorem packXY_high (op x y n : Nibble) : packXY op x y n &&& 0xF000#16 = packA op 0 := by
  rw [and_maskHigh, fieldOp_packXY]

theorem packXY_highLow (op x y n : Nibble) : packXY op x y n &&& 0xF00F#16 = packXY op 0 0 n := by
  rw [and_maskHighLow, fieldOp_packXY, fieldN_packXY]

theorem packXI_highByte (op x : Nibble) (nn : Byte) : packXI op x nn &&& 0xF0FF#16 = packXI op 0 nn := by
  rw [and_maskHighByte, fieldOp_packXI, fieldNN_packXI]

theorem cls : Statement .cls :=
  of_row .cls (List.mem_of_getElem? (i := 0) rfl) rfl rfl

theorem ret : Statement .ret :=
  of_row .ret (List.mem_of_getElem? (i := 1) rfl) rfl rfl

theorem jp (nnn : Addr) : Statement (.jp nnn) :=
  of_row (.jp 0) (List.mem_of_getElem? (i := 2) rfl) rfl (packA_high _ _)

theorem call (nnn : Addr) : Statement (.call nnn) :=
  of_row (.call 0) (List.mem_of_getElem? (i := 3) rfl) rfl (packA_high _ _)

theorem seImm (x : Nibble) (nn : Byte) : Statement (.seImm x nn) :=
  of_row (.seImm 0 0) (List.mem_of_getElem? (i := 4) rfl) rfl (packXI_high _ _ _)

theorem sneImm (x : Nibble) (nn : Byte) : Statement (.sneImm x nn) :=
  of_row (.sneImm 0 0) (List.mem_of_getElem? (i := 5) rfl) rfl (packXI_high _ _ _)

theorem seReg (x y : Nibble) : Statement (.seReg x y) :=
  of_row (.seReg 0 0) (List.mem_of_getElem? (i := 6) rfl) rfl (packXY_highLow _ _ _ _)

theorem ldImm (x : Nibble) (nn : Byte) : Statement (.ldImm x nn) :=
  of_row (.ldImm 0 0) (List.mem_of_getElem? (i := 7) rfl) rfl (packXI_high _ _ _)

theorem addImm (x : Nibble) (nn : Byte) : Statement (.addImm x nn) :=
  of_row (.addImm 0 0) (List.mem_of_getElem? (i := 8) rfl) rfl (packXI_high _ _ _)

theorem ldReg (x y : Nibble) : Statement (.ldReg x y) :=
  of_row (.ldReg 0 0) (List.mem_of_getElem? (i := 9) rfl) rfl (packXY_highLow _ _ _ _)

theorem orReg (x y : Nibble) : Statement (.orReg x y) :=
  of_row (.orReg 0 0) (List.mem_of_getElem? (i := 10) rfl) rfl (packXY_highLow _ _ _ _)

theorem andReg (x y : Nibble) : Statement (.andReg x y) :=
  of_row (.andReg 0 0) (List.mem_of_getElem? (i := 11) rfl) rfl (packXY_highLow _ _ _ _)

theorem xorReg (x y : Nibble) : Statement (.xorReg x y) :=
  of_row (.xorReg 0 0) (List.mem_of_getElem? (i := 12) rfl) rfl (packXY_highLow _ _ _ _)

theorem addReg (x y : Nibble) : Statement (.addReg x y) :=
  of_row (.addReg 0 0) (List.mem_of_getElem? (i := 13) rfl) rfl (packXY_highLow _ _ _ _)

theorem subReg (x y : Nibble) : Statement (.subReg x y) :=
  of_row (.subReg 0 0) (List.mem_of_getElem? (i := 14) rfl) rfl (packXY_highLow _ _ _ _)

theorem shr (x y : Nibble) : Statement (.shr x y) :=
  of_row (.shr 0 0) (List.mem_of_getElem? (i := 15) rfl) rfl (packXY_highLow _ _ _ _)

theorem subn (x y : Nibble) : Statement (.subn x y) :=
  of_row (.subn 0 0) (List.mem_of_getElem? (i := 16) rfl) rfl (packXY_highLow _ _ _ _)

theorem shl (x y : Nibble) : Statement (.shl x y) :=
  of_row (.shl 0 0) (List.mem_of_getElem? (i := 17) rfl) rfl (packXY_highLow _ _ _ _)

theorem sneReg (x y : Nibble) : Statement (.sneReg x y) :=
  of_row (.sneReg 0 0) (List.mem_of_getElem? (i := 18) rfl) rfl (packXY_highLow _ _ _ _)

theorem ldI (nnn : Addr) : Statement (.ldI nnn) :=
  of_row (.ldI 0) (List.mem_of_getElem? (i := 19) rfl) rfl (packA_high _ _)

theorem jpV0 (nnn : Addr) : Statement (.jpV0 nnn) :=
  of_row (.jpV0 0) (List.mem_of_getElem? (i := 20) rfl) rfl (packA_high _ _)

theorem rnd (x : Nibble) (nn : Byte) : Statement (.rnd x nn) :=
  of_row (.rnd 0 0) (List.mem_of_getElem? (i := 21) rfl) rfl (packXI_high _ _ _)

theorem drw (x y n : Nibble) : Statement (.drw x y n) :=
  of_row (.drw 0 0 0) (List.mem_of_getElem? (i := 22) rfl) rfl (packXY_high _ _ _ _)

theorem skp (x : Nibble) : Statement (.skp x) :=
  of_row (.skp 0) (List.mem_of_getElem? (i := 23) rfl) rfl (packXI_highByte _ _ _)

theorem sknp (x : Nibble) : Statement (.sknp x) :=
  of_row (.sknp 0) (List.mem_of_getElem? (i := 24) rfl) rfl (packXI_highByte _ _ _)

theorem ldVxDt (x : Nibble) : Statement (.ldVxDt x) :=
  of_row (.ldVxDt 0) (List.mem_of_getElem? (i := 25) rfl) rfl (packXI_highByte _ _ _)

theorem ldVxKey (x : Nibble) : Statement (.ldVxKey x) :=
  of_row (.ldVxKey 0) (List.mem_of_getElem? (i := 26) rfl) rfl (packXI_highByte _ _ _)

theorem ldDtVx (x : Nibble) : Statement (.ldDtVx x) :=
  of_row (.ldDtVx 0) (List.mem_of_getElem? (i := 27) rfl) rfl (packXI_highByte _ _ _)

theorem ldStVx (x : Nibble) : Statement (.ldStVx x) :=
  of_row (.ldStVx 0) (List.mem_of_getElem? (i := 28) rfl) rfl (packXI_highByte _ _ _)

theorem addI (x : Nibble) : Statement (.addI x) :=
  of_row (.addI 0) (List.mem_of_getElem? (i := 29) rfl) rfl (packXI_highByte _ _ _)

theorem ldFont (x : Nibble) : Statement (.ldFont x) :=
  of_row (.ldFont 0) (List.mem_of_getElem? (i := 30) rfl) rfl (packXI_highByte _ _ _)

theorem ldBcd (x : Nibble) : Statement (.ldBcd x) :=
  of_row (.ldBcd 0) (List.mem_of_getElem? (i := 31) rfl) rfl (packXI_highByte _ _ _)

theorem storeRegs (x : Nibble) : Statement (.storeRegs x) :=
  of_row (.storeRegs 0) (List.mem_of_getElem? (i := 32) rfl) rfl (packXI_highByte _ _ _)

theorem loadRegs (x : Nibble) : Statement (.loadRegs x) :=
  of_row (.loadRegs 0) (List.mem_of_getElem? (i := 33) rfl) rfl (packXI_highByte _ _ _)

end Sys2Proof.Laws.EncodingInRow
end

