-- ==== Sys2Proof/Laws/Step.lean ====
section
/-! SUPPORT. What one action can do, said once: the cases of the fetch, the Executor's step and the machine's step. -/

namespace Sys2Proof.Machine

/-- Everything the fetch can do (R63). -/
theorem State.fetch_cases (s : State) :
    (4094 < s.pc.toNat ∧ s.fetch = .error (.programCounterOutOfBounds s.pc)) ∨
    (s.pc.toNat ≤ 4094 ∧ s.fetch = .ok (s.wordAtPc, s.setPc (s.pc + 2#16))) := by
  unfold State.fetch
  split
  · exact .inl ⟨‹_›, rfl⟩
  · exact .inr ⟨by omega, rfl⟩

/-- Everything the Executor's step that answers a next state can do: the fetch fault, an instruction, or the warning. -/
theorem executorStep_cases {s t : State} (h : executorStep s = .next t) :
    s.run = .running ∧
    ((4094 < s.pc.toNat ∧ t = State.raise { s with loadTime := false } (.programCounterOutOfBounds s.pc)) ∨
     (s.pc.toNat ≤ 4094 ∧ ∃ i, decode s.wordAtPc = .ok i ∧
        exec i { s with loadTime := false, pc := s.pc + 2#16 } = .next t) ∨
     (s.pc.toNat ≤ 4094 ∧ ∃ e, decode s.wordAtPc = .error e ∧
        t = State.warnUnknown { s with loadTime := false, pc := s.pc + 2#16 } s.wordAtPc)) := by
  unfold executorStep at h
  split at h
  · cases h
  · cases h
  · refine ⟨‹_›, ?_⟩
    rcases State.fetch_cases { s with loadTime := false } with ⟨hp, hf⟩ | ⟨hp, hf⟩ <;> rw [hf] at h
    · cases h; exact .inl ⟨hp, rfl⟩
    · have hw : State.wordAtPc { s with loadTime := false } = s.wordAtPc := rfl
      simp only [hw, execWord] at h
      split at h
      · exact .inr (.inl ⟨hp, _, ‹_›, h⟩)
      · cases h; exact .inr (.inr ⟨hp, _, ‹_›, rfl⟩)

/-- Everything an action that answers a next state can do. -/
theorem perform_cases {a : Action} {s t : State} (h : perform a s = .next t) :
    (a = .step ∧ executorStep s = .next t) ∨ (a = .tick ∧ s.timerOn = true ∧ t = s.tick) ∨
    (∃ font, a = .init font ∧ t = s.init font) ∨
    (∃ bytes, a = .loadProgram bytes ∧ s.loadTime = true ∧ t = s.loadProgram bytes) ∨
    (a = .startTimer ∧ t = s.startTimer) ∨ (∃ k b, a = .setKey k b ∧ t = s.setKey k b) ∨
    (a = .readDisplay ∧ t = s.readDisplay) ∨ (a = .shutdown ∧ t = s.shutdown) := by
  cases a with
  | step => exact .inl ⟨rfl, h⟩
  | tick =>
    simp only [perform] at h
    split at h
    · cases h; exact .inr (.inl ⟨rfl, ‹_›, rfl⟩)
    · cases h
  | init font => cases h; exact .inr (.inr (.inl ⟨font, rfl, rfl⟩))
  | loadProgram bytes =>
    simp only [perform] at h
    split at h
    · cases h; exact .inr (.inr (.inr (.inl ⟨bytes, rfl, ‹_›, rfl⟩)))
    · cases h
  | startTimer => cases h; simp
  | setKey k b => cases h; exact .inr (.inr (.inr (.inr (.inr (.inl ⟨k, b, rfl, rfl⟩)))))
  | readDisplay => cases h; simp
  | shutdown => cases h; simp

/-- A step is the Executor's when the agenda is empty, else the agenda's first action. -/
theorem step_cases {s t : State} (h : step s = .next t) :
    (s.agenda = [] ∧ executorStep s = .next t) ∨
    ∃ a rest, s.agenda = a :: rest ∧ perform a { s with agenda := rest } = .next t := by
  unfold step nextAction at h
  split at h
  · exact .inl ⟨‹_›, h⟩
  · exact .inr ⟨_, _, ‹_›, h⟩

/-- With an action on the agenda, the step performs it. -/
theorem step_of_agenda {s : State} {a : Action} {rest : List Action} (h : s.agenda = a :: rest) :
    step s = perform a { s with agenda := rest } := by
  unfold step nextAction; rw [h]

/-- On the Executor's turn the step is the Executor's, its entry of the agenda used up. -/
theorem step_of_executorsTurn {s : State} (h : s.ExecutorsTurn) :
    step s = executorStep { s with agenda := s.agenda.tail } := by
  obtain ⟨v, i, pc, sp, stack, dt, st, mem, disp, keys, tone, run, timerOn, trace, draws, agenda, loadTime, reply⟩ := s
  rcases agenda with - | ⟨a, rest⟩
  · rfl
  · rcases h with h | h
    · cases h
    · cases h; rfl

/-- A running Executor whose PC fetches executes the word at PC with PC advanced by 2 and the load window closed. -/
theorem executorStep_of_running {s : State} (hr : s.run = .running) (hp : s.pc.toNat ≤ 4094) :
    executorStep s = execWord s.wordAtPc { s with loadTime := false, pc := s.pc + 2#16 } := by
  unfold executorStep
  rw [hr]
  rcases State.fetch_cases { s with loadTime := false } with ⟨h, -⟩ | ⟨-, h⟩
  · exact absurd hp (Nat.not_le.2 h)
  · simp only [hr] at h ⊢; rw [h]; rfl

/-- A running Executor whose PC does not fetch raises ProgramCounterOutOfBounds. -/
theorem executorStep_of_fetchFault {s : State} (hr : s.run = .running) (hp : 4094 < s.pc.toNat) :
    executorStep s = .next (State.raise { s with loadTime := false } (.programCounterOutOfBounds s.pc)) := by
  unfold executorStep
  rw [hr]
  rcases State.fetch_cases { s with loadTime := false } with ⟨-, h⟩ | ⟨h, -⟩
  · simp only [hr] at h ⊢; rw [h]
  · exact absurd hp (Nat.not_lt.2 h)

/-- An invariant that every effect keeps is kept by every step: the one induction over what a step can do. -/
theorem step_keeps (P : State → Prop)
    (agenda : ∀ s rest, P s → P { s with agenda := rest }) (window : ∀ s b, P s → P { s with loadTime := b })
    (fetchFault : ∀ s, P s → s.run = .running → 4094 < s.pc.toNat → P (s.raise (.programCounterOutOfBounds s.pc)))
    (instr : ∀ s i t, P s → s.run = .running → s.pc.toNat ≤ 4094 → exec i { s with pc := s.pc + 2#16 } = .next t → P t)
    (unknown : ∀ s w, P s → s.run = .running → s.pc.toNat ≤ 4094 → P (State.warnUnknown { s with pc := s.pc + 2#16 } w))
    (tick : ∀ s, P s → P s.tick) (init : ∀ s font, P (State.init s font))
    (load : ∀ s bytes, P s → P (State.loadProgram s bytes)) (start : ∀ s, P s → P s.startTimer)
    (key : ∀ s k b, P s → P (s.setKey k b)) (read : ∀ s, P s → P s.readDisplay) (shut : ∀ s, P s → P s.shutdown)
    {s t : State} (hs : P s) (h : step s = .next t) : P t := by
  have exec : ∀ s t, P s → executorStep s = .next t → P t := by
    intro s t hs h
    obtain ⟨hr, ⟨hp, rfl⟩ | ⟨hp, i, -, h⟩ | ⟨hp, e, -, rfl⟩⟩ := executorStep_cases h
    · exact fetchFault _ (window s false hs) hr hp
    · exact instr _ i t (window s false hs) hr hp h
    · exact unknown _ _ (window s false hs) hr hp
  rcases step_cases h with ⟨-, h⟩ | ⟨a, rest, -, h⟩
  · exact exec _ _ hs h
  · have hs' := agenda s rest hs
    obtain ⟨-, h⟩ | ⟨-, -, rfl⟩ | ⟨f, -, rfl⟩ | ⟨b, -, -, rfl⟩ | ⟨-, rfl⟩ | ⟨k, b, -, rfl⟩ | ⟨-, rfl⟩ | ⟨-, rfl⟩ :=
      perform_cases h
    · exact exec _ _ hs' h
    · exact tick _ hs'
    · exact init _ _
    · exact load _ _ hs'
    · exact start _ hs'
    · exact key _ _ _ hs'
    · exact read _ hs'
    · exact shut _ hs'

end Sys2Proof.Machine
end

