-- ==== Sys2Proof/Tests/Slice0.lean ====
section
/-! SUPPORT. The author's own tests: decoding from words written out bit by bit (spec/30_encoding.md R91, R95), one step per
vector of spec/95_test_vectors.md (the expected values are the spec's), and for every obligation with hypotheses a state
and operands that meet them (test_witness_...). -/

namespace Sys2Proof.Tests

open Sys2Proof Sys2Proof.Machine

/-! ## Helpers -/

/-- The state after one step of `s` with the word `op` stored where it fetches. -/
def run (s : State) (op : Word) : Option State :=
  match step (s.placeWord op) with
  | .next t => some t
  | .fault _ => none
  | .refused _ => none

/-- The state after one action. -/
def act (s : State) (a : Machine.Action) : Option State :=
  match step { s with agenda := [a] } with
  | .next t => some t
  | .fault _ => none
  | .refused _ => none

/-- A fresh machine whose registers V0, V1, V2 and VF hold these bytes. -/
def regs (v0 v1 v2 vF : Byte) : State := (((State.reset.setV 0 v0).setV 1 v1).setV 2 v2).setV 0xF vF

/-! ## WellFormed smoke -/

theorem test_rom_too_long_is_refused : romFits (List.replicate 3585 0) = false := by
  rw [romFits, List.length_replicate]; decide

theorem test_rom_full_length_fits : romFits (List.replicate 3584 0) = true := by
  rw [romFits, List.length_replicate]; decide

theorem test_every_operand_is_in_range : ∀ i : Instr, i.wellFormed = true := Instr.wellFormed_all

/-! ## Decoding, each word written out from R91 and R95: opcode, then the fields -/

theorem test_decode_cls : decode 0b0000000011100000#16 = .ok .cls := by decide
theorem test_decode_ret : decode 0b0000000011101110#16 = .ok .ret := by decide
theorem test_decode_jp : decode 0b0001101010111100#16 = .ok (.jp 0xABC#12) := by decide
theorem test_decode_call : decode 0b0010001100000000#16 = .ok (.call 0x300#12) := by decide
theorem test_decode_seImm : decode 0b0011001101000010#16 = .ok (.seImm 0x3#4 0x42#8) := by decide
theorem test_decode_sneImm : decode 0b0100001101000011#16 = .ok (.sneImm 0x3#4 0x43#8) := by decide
theorem test_decode_seReg : decode 0b0101000100100000#16 = .ok (.seReg 0x1#4 0x2#4) := by decide
theorem test_decode_ldImm : decode 0b0110101000001111#16 = .ok (.ldImm 0xA#4 0x0F#8) := by decide
theorem test_decode_addImm : decode 0b0111000111111111#16 = .ok (.addImm 0x1#4 0xFF#8) := by decide
theorem test_decode_ldReg : decode 0b1000000100100000#16 = .ok (.ldReg 0x1#4 0x2#4) := by decide
theorem test_decode_orReg : decode 0b1000000100100001#16 = .ok (.orReg 0x1#4 0x2#4) := by decide
theorem test_decode_andReg : decode 0b1000000100100010#16 = .ok (.andReg 0x1#4 0x2#4) := by decide
theorem test_decode_xorReg : decode 0b1000000100100011#16 = .ok (.xorReg 0x1#4 0x2#4) := by decide
theorem test_decode_addReg : decode 0b1000000100100100#16 = .ok (.addReg 0x1#4 0x2#4) := by decide
theorem test_decode_subReg : decode 0b1000000100100101#16 = .ok (.subReg 0x1#4 0x2#4) := by decide
theorem test_decode_shr : decode 0b1000000100100110#16 = .ok (.shr 0x1#4 0x2#4) := by decide
theorem test_decode_subn : decode 0b1000000100100111#16 = .ok (.subn 0x1#4 0x2#4) := by decide
theorem test_decode_shl : decode 0b1000000100101110#16 = .ok (.shl 0x1#4 0x2#4) := by decide
theorem test_decode_sneReg : decode 0b1001000100100000#16 = .ok (.sneReg 0x1#4 0x2#4) := by decide
theorem test_decode_ldI : decode 0b1010000100100011#16 = .ok (.ldI 0x123#12) := by decide
theorem test_decode_jpV0 : decode 0b1011001100000001#16 = .ok (.jpV0 0x301#12) := by decide
theorem test_decode_rnd : decode 0b1100000100001111#16 = .ok (.rnd 0x1#4 0x0F#8) := by decide
theorem test_decode_drw : decode 0b1101000100100101#16 = .ok (.drw 0x1#4 0x2#4 0x5#4) := by decide
theorem test_decode_skp : decode 0b1110000110011110#16 = .ok (.skp 0x1#4) := by decide
theorem test_decode_sknp : decode 0b1110000110100001#16 = .ok (.sknp 0x1#4) := by decide
theorem test_decode_ldVxDt : decode 0b1111000100000111#16 = .ok (.ldVxDt 0x1#4) := by decide
theorem test_decode_ldVxKey : decode 0b1111000100001010#16 = .ok (.ldVxKey 0x1#4) := by decide
theorem test_decode_ldDtVx : decode 0b1111000100010101#16 = .ok (.ldDtVx 0x1#4) := by decide
theorem test_decode_ldStVx : decode 0b1111000100011000#16 = .ok (.ldStVx 0x1#4) := by decide
theorem test_decode_addI : decode 0b1111000100011110#16 = .ok (.addI 0x1#4) := by decide
theorem test_decode_ldFont : decode 0b1111000100101001#16 = .ok (.ldFont 0x1#4) := by decide
theorem test_decode_ldBcd : decode 0b1111000100110011#16 = .ok (.ldBcd 0x1#4) := by decide
theorem test_decode_storeRegs : decode 0b1111001001010101#16 = .ok (.storeRegs 0x2#4) := by decide
theorem test_decode_loadRegs : decode 0b1111001001100101#16 = .ok (.loadRegs 0x2#4) := by decide

/-- R94, R101: words that look like a neighbour (TX5 to TX8). -/
theorem test_decode_unknown_near_cls_ret_skips :
    decode 0x0000#16 = .error (.unknownOpcode 0x0000#16) ∧ decode 0x00E1#16 = .error (.unknownOpcode 0x00E1#16) ∧
    decode 0x5121#16 = .error (.unknownOpcode 0x5121#16) ∧ decode 0x9121#16 = .error (.unknownOpcode 0x9121#16) := by decide
/-- TX9 to TX11. -/
theorem test_decode_unknown_functions :
    decode 0x8128#16 = .error (.unknownOpcode 0x8128#16) ∧ decode 0x812F#16 = .error (.unknownOpcode 0x812F#16) ∧
    decode 0xE19F#16 = .error (.unknownOpcode 0xE19F#16) ∧ decode 0xF1FF#16 = .error (.unknownOpcode 0xF1FF#16) := by decide

/-- R62: the byte at the lower address is the high byte; one byte is no instruction. -/
theorem test_decodeBytes_big_endian :
    decodeBytes [0x6A#8, 0x0F#8, 0x77#8] = .ok (.ldImm 0xA#4 0x0F#8, [0x77#8]) ∧ decodeBytes [0x6A#8] = .error .truncated := by
  decide

/-! ## Fetch and the warning -/

/-- S1, TX1: the last address that fetches is 0xFFE. -/
theorem test_fetch_at_4094 :
    (run { State.reset with pc := 0xFFE } 0x6A0F#16).map (fun t => (t.getV 0xA, t.pc, t.run)) =
      some (0x0F#8, 0x1000#16, .running) := by decide

/-- TX2. -/
theorem test_fetch_at_4095 :
    (act { State.reset with pc := 0xFFF } .step).map (fun t => (t.pc, t.run, t.trace)) =
      some (0xFFF#16, .halted .programCounterOutOfBounds, [.fault (.programCounterOutOfBounds 0xFFF#16)]) := by decide

/-- TX3, second step: an odd address fetches. -/
theorem test_fetch_at_odd_address :
    (run { State.reset with pc := 0x203 } 0x6A0F#16).map (fun t => (t.getV 0xA, t.pc)) = some (0x0F#8, 0x205#16) := by
  decide

/-- TX5. -/
theorem test_unknown_word_warns :
    (run State.reset 0x0123#16).map (fun t => (t.pc, t.run, t.trace)) =
      some (0x202#16, .running, [.warnUnknownOpcode 0x0123#16 0x200#16]) := by decide

/-! ## Control transfer -/

theorem test_ret_pops : (run { State.reset with sp := 1, stack := State.reset.stack.set 0 0x202, pc := 0x300 } 0x00EE#16).map
    (fun t => (t.sp, t.pc, t.stack[0])) = some (0, 0x202#16, 0x202#16) := by decide
/-- TF8. -/
theorem test_ret_underflow : (run State.reset 0x00EE#16).map (fun t => (t.sp, t.pc, t.run, t.trace)) =
    some (0, 0x202#16, .halted .stackUnderflow, [.fault (.stackUnderflow 0x200#16)]) := by decide
/-- TF4. -/
theorem test_call_sixteenth : (run { State.reset with sp := 15 } 0x2300#16).map (fun t => (t.sp, t.pc, t.stack[15])) =
    some (16, 0x300#16, 0x202#16) := by decide
/-- TF5. -/
theorem test_call_overflow : (run { State.reset with sp := 16 } 0x2300#16).map (fun t => (t.sp, t.pc, t.run, t.trace)) =
    some (16, 0x202#16, .halted .stackOverflow, [.fault (.stackOverflow 0x200#16)]) := by decide
/-- TF1. -/
theorem test_jp : (run State.reset 0x1ABC#16).map (·.pc) = some 0xABC#16 := by decide
/-- TF19. -/
theorem test_jpV0_not_reduced : (run (regs 0xFF 0 0 0) 0xBFFF#16).map (·.pc) = some 0x10FE#16 := by decide
/-- TF20. -/
theorem test_jpV0_uses_V0 : (run ((regs 2 0 0 0).setV 3 0x50) 0xB300#16).map (·.pc) = some 0x302#16 := by decide
/-- TF14. -/
theorem test_seImm : (run (State.reset.setV 3 0x42) 0x3342#16).map (·.pc) = some 0x204#16 ∧
    (run (State.reset.setV 3 0x42) 0x3343#16).map (·.pc) = some 0x202#16 := by decide
/-- TF15. -/
theorem test_sneImm : (run (State.reset.setV 3 0x42) 0x4342#16).map (·.pc) = some 0x202#16 ∧
    (run (State.reset.setV 3 0x42) 0x4343#16).map (·.pc) = some 0x204#16 := by decide
/-- TF9, TF10. -/
theorem test_seReg : (run (regs 0 7 7 0) 0x5120#16).map (·.pc) = some 0x204#16 ∧
    (run (regs 0 7 8 0) 0x5120#16).map (·.pc) = some 0x202#16 := by decide
/-- TF12, TF13. -/
theorem test_sneReg : (run (regs 0 7 8 0) 0x9120#16).map (·.pc) = some 0x204#16 ∧
    (run (regs 0 7 7 0) 0x9120#16).map (·.pc) = some 0x202#16 := by decide

/-! ## Register and arithmetic instructions -/

/-- TA1. -/
theorem test_ldImm_VF : (run State.reset 0x6FAB#16).map (·.getV 0xF) = some 0xAB#8 := by decide
/-- TA2. -/
theorem test_addImm_no_flag : (run (regs 0 0xFF 0 0) 0x7102#16).map (fun t => (t.getV 1, t.getV 0xF)) = some (1#8, 0#8) := by
  decide
/-- TA4. -/
theorem test_ldReg : (run (regs 0 0 0x37 0) 0x8120#16).map (fun t => (t.getV 1, t.getV 2)) = some (0x37#8, 0x37#8) := by
  decide
/-- TA5. -/
theorem test_or_keeps_VF : (run (regs 0 0xF0 0x0F 1) 0x8121#16).map (fun t => (t.getV 1, t.getV 0xF)) = some (0xFF#8, 1#8) := by
  decide
/-- TA6. -/
theorem test_and : (run (regs 0 0xF0 0x3C 0) 0x8122#16).map (·.getV 1) = some 0x30#8 := by decide
/-- TA7. -/
theorem test_xor : (run (regs 0 0xF0 0x3C 0) 0x8123#16).map (·.getV 1) = some 0xCC#8 := by decide
/-- TA9: the carry overwrites the sum. -/
theorem test_add_into_VF : (run (regs 0 0x20 0 0xF0) 0x8F14#16).map (fun t => (t.getV 0xF, t.getV 1)) = some (1#8, 0x20#8) := by
  decide
/-- TA10: the old VF is the addend. -/
theorem test_add_from_VF : (run (regs 0 0xFF 0 1) 0x81F4#16).map (fun t => (t.getV 1, t.getV 0xF)) = some (0#8, 1#8) := by
  decide
/-- R150's example: equal operands give flag 0. -/
theorem test_sub_strict : (run (regs 0 0x33 0x33 1) 0x8125#16).map (fun t => (t.getV 1, t.getV 0xF)) = some (0#8, 0#8) := by
  decide
/-- S9: borrow. -/
theorem test_sub_borrow : (run (regs 0 0x01 0x10 1) 0x8125#16).map (fun t => (t.getV 1, t.getV 0xF)) = some (0xF1#8, 0#8) := by
  decide
/-- TA15: Y is ignored. -/
theorem test_shr_ignores_y : (run (regs 0 4 0xFF 1) 0x8126#16).map (fun t => (t.getV 1, t.getV 0xF, t.getV 2)) =
    some (2#8, 0#8, 0xFF#8) := by decide
/-- TA17. -/
theorem test_shr_VF : (run (regs 0 0 0 2) 0x8F06#16).map (·.getV 0xF) = some 0#8 := by decide
/-- TA19. -/
theorem test_subn_borrow : (run (regs 0 0x10 0x01 1) 0x8127#16).map (fun t => (t.getV 1, t.getV 0xF)) = some (0xF1#8, 0#8) := by
  decide
/-- TA21. -/
theorem test_subn_VF : (run (regs 0 9 0 5) 0x8F17#16).map (·.getV 0xF) = some 1#8 := by decide
/-- TA22. -/
theorem test_shl : (run (regs 0 0x81 0 0) 0x810E#16).map (fun t => (t.getV 1, t.getV 0xF)) = some (2#8, 1#8) := by decide
/-- TA25. -/
theorem test_shl_VF : (run (regs 0 0 0 0x41) 0x8F0E#16).map (·.getV 0xF) = some 0#8 := by decide
/-- TA26: a zero mask gives 0 whatever byte is drawn. -/
theorem test_rnd_zero_mask (s : State) : ∃ t, exec (.rnd 1 0) s = .next t ∧ t.getV 1 = 0 := by
  refine ⟨_, rfl, ?_⟩
  rw [State.getV_setV_self]; exact BitVec.and_zero

/-! ## Index register and memory -/

/-- TI1. -/
theorem test_ldI : (run State.reset 0xAFFF#16).map (·.i) = some 0xFFF#16 := by decide
/-- TI2: a sum of exactly 0xFFF clears VF. -/
theorem test_addI_at_limit : (run { regs 0 1 0 1 with i := 0xFFE } 0xF11E#16).map (fun t => (t.i, t.getV 0xF)) =
    some (0xFFF#16, 0#8) := by decide
/-- TI4b: the flag comes from the unreduced sum. -/
theorem test_addI_wraps : (run { regs 0 2 0 0 with i := 0xFFFF } 0xF11E#16).map (fun t => (t.i, t.getV 0xF)) =
    some (1#16, 1#8) := by decide
/-- TI6, TI7. -/
theorem test_ldFont : (run (regs 0 0x1A 0 0) 0xF129#16).map (·.i) = some 0x32#16 ∧
    (run (regs 0 0xFF 0 0) 0xF129#16).map (·.i) = some 0x4B#16 := by decide
/-- TI10. -/
theorem test_bcd_at_top : (run { regs 0 255 0 0 with i := 0xFFD } 0xF133#16).map (fun t => t.readBytes 0xFFD 3) =
    some [2#8, 5#8, 5#8] := by decide
/-- TI11. -/
theorem test_bcd_out_of_bounds :
    (run { regs 0 254 0 0 with i := 0xFFE } 0xF133#16).map (fun t => (t.run, t.trace, t.pc, t.readBytes 0xFFE 2)) =
      some (.halted .memoryOutOfBounds, [.fault (.memoryOutOfBounds 0xFFE#16 3)], 0x202#16, [0#8, 0#8]) := by decide
/-- TI12: the last register stored is Vx; I stays. -/
theorem test_storeRegs : (run { (regs 0x11 0x22 0x33 0).setV 3 0x44 with i := 0x400 } 0xF255#16).map
    (fun t => (t.readBytes 0x400 4, t.i)) = some ([0x11#8, 0x22#8, 0x33#8, 0#8], 0x400#16) := by decide
/-- TI14. -/
theorem test_storeRegs_out_of_bounds :
    (run { regs 1 2 3 16 with i := 0xFF1 } 0xFF55#16).map (fun t => (t.run, t.trace, t.readBytes 0xFF1 2)) =
      some (.halted .memoryOutOfBounds, [.fault (.memoryOutOfBounds 0xFF1#16 16)], [0#8, 0#8]) := by decide
/-- TI15: registers above Vx stay. -/
theorem test_loadRegs : (run { (State.reset.writeBytes 0x300 [2, 5, 4, 9]).setV 3 0x77 with i := 0x300 } 0xF265#16).map
    (fun t => (t.getV 0, t.getV 1, t.getV 2, t.getV 3, t.i)) = some (2#8, 5#8, 4#8, 0x77#8, 0x300#16) := by decide
/-- TI17. -/
theorem test_loadRegs_out_of_bounds : (run { regs 8 9 0 0 with i := 0xFFF } 0xF165#16).map
    (fun t => (t.run, t.trace, t.getV 0, t.getV 1)) =
      some (.halted .memoryOutOfBounds, [.fault (.memoryOutOfBounds 0xFFF#16 2)], 8#8, 9#8) := by decide
/-- Memory stays canonical: writing the reset content again removes the entry. -/
theorem test_memory_canonical : (Memory.write (Memory.write [] 0x300 5) 0x300 0) = [] ∧
    (Memory.write (Memory.write [] 0x301 5) 0 0xAA) = [(0, 0xAA#8), (0x301, 5#8)] := by decide

/-! ## Display -/

/-- A fresh machine with one pixel set. -/
def lit (px : Fin 64) (py : Fin 32) (s : State) : State := s.setDisp (s.disp.setPixel px py true)

/-- TD10. -/
theorem test_cls : (run (lit 10 10 (regs 0 0 0 1)) 0x00E0#16).map (fun t => (Display.pixel t.disp 10 10, t.getV 0xF)) =
    some (false, 1#8) := by decide
/-- TD1: wraps at both edges, bit 7 is the first column. -/
theorem test_drw_wraps : (run { (regs 0 62 31 1).writeBytes 0x20A [0xC0, 0x81] with i := 0x20A } 0xD122#16).map
    (fun t => ([t.disp.pixel 62 31, t.disp.pixel 63 31, t.disp.pixel 62 0, t.disp.pixel 5 0, t.disp.pixel 61 31,
      t.disp.pixel 0 31, t.disp.pixel 63 0], t.getV 0xF)) = some ([true, true, true, true, false, false, false], 0#8) := by
  decide
/-- TD5: a set pixel is unset and VF is 1. -/
theorem test_drw_collides : (run { lit 62 0 ((regs 0 60 0 0).writeBytes 0x300 [0xFF]) with i := 0x300 } 0xD121#16).map
    (fun t => ([t.disp.pixel 60 0, t.disp.pixel 62 0, t.disp.pixel 3 0, t.disp.pixel 4 0], t.getV 0xF)) =
      some ([true, false, true, false], 1#8) := by decide
/-- TD4: no rows, no fault, VF = 0. -/
theorem test_drw_no_rows : (run { regs 0 0 0 1 with i := 0x1234 } 0xD120#16).map (fun t => (t.run, t.getV 0xF)) =
    some (.running, 0#8) := by decide
/-- TD8. -/
theorem test_drw_out_of_bounds : (run { (regs 0 0 0 1).writeBytes 0xFFF [0x80] with i := 0xFFF } 0xD122#16).map
    (fun t => (t.trace, t.disp.pixel 0 0, t.getV 0xF)) = some ([.fault (.memoryOutOfBounds 0xFFF#16 2)], false, 1#8) := by
  decide

/-! ## Timers and keys -/

/-- TK1. -/
theorem test_ldVxDt : (run { State.reset with dt := 0x3A } 0xF107#16).map (·.getV 1) = some 0x3A#8 := by decide
/-- TK11. -/
theorem test_ldDtVx : (run { regs 0 0xFF 0 0 with dt := 9 } 0xF115#16).map (·.dt) = some 255#8 := by decide
/-- TK3. -/
theorem test_ldStVx : (run (regs 0 2 0 0) 0xF118#16).map (fun t => (t.st, t.tone, t.trace)) = some (2#8, false, []) := by decide
/-- TK6, TK5: the low nibble of Vx numbers the key. -/
theorem test_skp : (run ((regs 0 0x15 0 0).setKey 5 true) 0xE19E#16).map (·.pc) = some 0x204#16 ∧
    (run (regs 0 5 0 0) 0xE19E#16).map (·.pc) = some 0x202#16 := by decide
/-- TK4, TK5. -/
theorem test_sknp : (run ((regs 0 5 0 0).setKey 5 true) 0xE1A1#16).map (·.pc) = some 0x202#16 ∧
    (run (regs 0 5 0 0) 0xE1A1#16).map (·.pc) = some 0x204#16 := by decide
/-- TK7. -/
theorem test_ldVxKey_waits : (run (regs 0 9 0 0) 0xF10A#16).map (fun t => (t.pc, t.getV 1, t.trace)) =
    some (0x200#16, 9#8, []) := by decide
/-- TK8. -/
theorem test_ldVxKey_takes_the_key : (run (State.reset.setKey 7 true) 0xF10A#16).map (fun t => (t.pc, t.getV 1)) =
    some (0x202#16, 7#8) := by decide

/-! ## The tick and the host's actions -/

/-- DT, ST, TONE and the events of one tick. -/
def tickOf (dt st : Byte) (tone : Bool) : Option (Byte × Byte × Bool × List Event) :=
  (act { State.reset with dt := dt, st := st, tone := tone, timerOn := true } .tick).map
    fun t => (t.dt, t.st, t.tone, t.trace)

/-- TT1, TT3, TT4: the tone was off. -/
theorem test_tick_tone_off : tickOf 0 0 false = some (0#8, 0#8, false, []) ∧
    tickOf 5 1 false = some (4#8, 0#8, false, [.audioStart, .audioStop]) ∧
    tickOf 0 2 false = some (0#8, 1#8, true, [.audioStart]) :=
  ⟨by decide, by decide, by decide⟩

/-- TT5, TT6, TT7: the tone was on. -/
theorem test_tick_tone_on : tickOf 0 0 true = some (0#8, 0#8, false, [.audioStop]) ∧
    tickOf 0 1 true = some (0#8, 0#8, false, [.audioStop]) ∧ tickOf 0 7 true = some (0#8, 6#8, true, []) :=
  ⟨by decide, by decide, by decide⟩

/-- TR1: no AudioStop, TIMER_ON false. -/
theorem test_init_resets :
    (act { regs 1 2 3 4 with run := .halted .stackOverflow, sp := 16, st := 4, tone := true, timerOn := true, trace := [.audioStart] }
      (.init defaultFont)).map (fun t => { t with mem := [] }) = some State.reset := by decide

/-- S11: the bytes land at 0x200 on, the font stays. -/
theorem test_load_program : (act State.reset (.loadProgram [0x6A, 0x0F, 0x12, 0x02])).map
    (fun t => (t.readBytes 0x200 5, t.readBytes 0 5, t.reply)) =
      some ([0x6A#8, 0x0F#8, 0x12#8, 0x02#8, 0#8], [0xF0#8, 0x90#8, 0x90#8, 0x90#8, 0xF0#8], some .loaded) := by decide

/-- TR6, on a machine that is not halted. -/
theorem test_shutdown : (act { State.reset with timerOn := true } .shutdown).map (fun t => (t.run, t.timerOn, t.trace)) =
    some (.stopped, false, []) := by decide

/-- R229, D14: a halted machine leaves Halted only by Init (log entry 14). -/
theorem test_shutdown_while_halted :
    (act { State.reset with run := .halted .stackOverflow, timerOn := true } .shutdown).map (fun t => (t.run, t.timerOn)) =
      some (.halted .stackOverflow, false) := by decide

/-- withFetchWord places a word of the opcode table where the next step fetches it. -/
theorem test_withFetchWord : step (State.reset.withFetchWord 16 0xF118) =
    exec (.ldStVx 1) { State.reset.withFetchWord 16 0xF118 with pc := 0x202#16, loadTime := false } ∧
    decodeTableWord 16 0xF118 = some (.ldStVx 1) := ⟨rfl, rfl⟩

/-! ## Witnesses: states and operands that meet the hypotheses of the obligations, at the boundaries of their clauses -/

/-- A fresh machine with these actions before it. -/
def queued (agenda : List Machine.Action) : State := { State.reset with agenda := agenda }

/-- A fresh machine at this PC, the word stored there. -/
def placed (pc op : Word) : State := { State.reset with pc := pc }.placeWord op

/-- Every RowDecodes: each row accepts a word. -/
theorem test_witness_RowDecodes : ∀ i ∈ rowInstrs, encode i &&& i.row.mask = i.row.value := by decide

theorem test_witness_InitResetsWithAnyFont : (queued [.init defaultFont]).agenda = .init defaultFont :: [] := rfl

theorem test_witness_LoadProgramWritesTheRom_fits :
    (queued [.loadProgram (List.replicate 3584 0)]).agenda = .loadProgram (List.replicate 3584 0) :: [] ∧
    (queued [.loadProgram (List.replicate 3584 0)]).MemCanonical ∧
    (queued [.loadProgram (List.replicate 3584 0)]).loadTime = true ∧ (List.replicate 3584 (0 : Byte)).length ≤ 3584 :=
  ⟨rfl, Memory.wf_nil, rfl, Nat.le_of_eq List.length_replicate⟩
theorem test_witness_LoadProgramWritesTheRom_too_large :
    (queued [.loadProgram (List.replicate 3585 0)]).agenda = .loadProgram (List.replicate 3585 0) :: [] ∧
    (queued [.loadProgram (List.replicate 3585 0)]).MemCanonical ∧
    (queued [.loadProgram (List.replicate 3585 0)]).loadTime = true ∧ 3584 < (List.replicate 3585 (0 : Byte)).length :=
  ⟨rfl, Memory.wf_nil, rfl, Nat.lt_of_lt_of_eq (Nat.lt_succ_self 3584) List.length_replicate.symm⟩
theorem test_witness_LoadProgramWritesTheRom_late :
    let s := { queued [.loadProgram [1]] with loadTime := false }
    s.agenda = .loadProgram [1] :: [] ∧ s.MemCanonical ∧ s.loadTime = false := ⟨rfl, Memory.wf_nil, rfl⟩

theorem test_witness_TimerSwitchAndShutdown :
    (queued [.startTimer]).agenda = .startTimer :: [] ∧ (queued [.shutdown, .tick]).agenda = .shutdown :: [.tick] ∧
    (∀ f, (queued [.shutdown]).run ≠ .halted f) ∧ (∃ t, step (queued [.shutdown]) = .next t ∧ t.ExecutorsTurn) ∧
    (∃ t, step { queued [.shutdown] with run := .halted .stackOverflow } = .next t ∧ t.ExecutorsTurn) ∧
    ∃ t, step (queued [.shutdown, .tick]) = .next t ∧ t.agenda.head? = some .tick :=
  ⟨rfl, rfl, fun _ h => RunState.noConfusion h, ⟨_, rfl, .inl rfl⟩, ⟨_, rfl, .inl rfl⟩, ⟨_, rfl, rfl⟩⟩

theorem test_witness_SetKeyWritesOneKey : (queued [.setKey 5 true]).agenda = .setKey 5 true :: [] ∧
    ∃ t, exec .cls State.reset = .next t := ⟨rfl, _, rfl⟩

theorem test_witness_ReadDisplayIsASnapshot : (queued [.readDisplay]).agenda = .readDisplay :: [] := rfl

theorem test_witness_TickFollowsTheCaseTable :
    (queued [.tick]).agenda = .tick :: [] ∧ (queued [.tick]).timerOn = false ∧
    ({ queued [.tick] with timerOn := true } : State).timerOn = true := ⟨rfl, rfl, rfl⟩

theorem test_witness_TimersCountDownToZero :
    let s := { queued (List.replicate 7 .tick) with timerOn := true, dt := 5, st := 9 }
    s.timerOn = true ∧ s.agenda = List.replicate 7 .tick := ⟨rfl, rfl⟩

/-- k below ST, and k equal to it. -/
theorem test_witness_ToneSoundsUntilTheNthTick :
    let s (k : Nat) : State := { queued (List.replicate k .tick) with timerOn := true, st := 2 }
    ∀ k ∈ [1, 2], (s k).timerOn = true ∧ (s k).agenda = List.replicate k .tick ∧ 1 ≤ k ∧ (s k).tone = false ∧
      0 < (s k).st.toNat := by decide

theorem test_witness_StepKeepsToneAlternating :
    let s := { queued [.tick] with timerOn := true, st := 1 }
    s.ToneAlternates ∧ ∃ t, step s = .next t := ⟨rfl, _, rfl⟩

theorem test_witness_DecodeFollowsTheOpcodeMap :
    decode 0x8126#16 = .ok (.shr 1 2) ∧ (Instr.row .cls) ∈ opcodeTable ∧ (Instr.row .cls).accepts 0x00E0#16 = true := by
  decide

/-- A shift with a Y that is not 0. -/
theorem test_witness_EncodeDecodeIsIdentity : decode 0x812E#16 = .ok (.shl 1 2) := by decide
theorem test_witness_DecodeEncodeIsIdentity : (Instr.shl 1 2).wellFormed = true := by decide

/-- The boundary words of the ranges R101 lists, one or two per clause, and their neighbours that are instructions. -/
theorem test_witness_UnknownWordsAreTheListed :
    UnknownWord 0x0FFF#16 ∧ ¬ UnknownWord 0x1000#16 ∧ ¬ UnknownWord 0x00EE#16 ∧ UnknownWord 0x5001#16 ∧
    ¬ UnknownWord 0x5FF0#16 ∧ UnknownWord 0x9FFF#16 ∧ UnknownWord 0x8FF8#16 ∧ UnknownWord 0x800F#16 ∧ ¬ UnknownWord 0x800E#16 ∧
    UnknownWord 0xE000#16 ∧ ¬ UnknownWord 0xEF9E#16 ∧ UnknownWord 0xFFFF#16 ∧ ¬ UnknownWord 0xFF65#16 := by
  refine ⟨?_, ?_, ?_, ?_, ?_, ?_, ?_, ?_, ?_, ?_, ?_, ?_, ?_⟩ <;> unfold UnknownWord <;> decide

/-- The last PC that fetches. -/
theorem test_witness_StepRunsTheDecodedInstruction :
    let s := placed 0xFFE#16 0x6A0F#16
    s.ExecutorsTurn ∧ s.run = .running ∧ s.pc.toNat ≤ 4094 ∧ (Instr.ldImm 0xA 0x0F).wellFormed = true ∧
    decode (s.readByte s.pc.toNat ++ s.readByte (s.pc.toNat + 1)) = .ok (.ldImm 0xA 0x0F) :=
  ⟨.inl rfl, rfl, by decide, by decide, by decide⟩

theorem test_witness_UnknownWordOnlyWarns :
    let s := placed 0xFFE#16 0xFFFF#16
    s.ExecutorsTurn ∧ s.run = .running ∧ s.pc.toNat ≤ 4094 ∧
    0xFFFF#16 = s.readByte s.pc.toNat ++ s.readByte (s.pc.toNat + 1) ∧ UnknownWord 0xFFFF#16 :=
  ⟨.inl rfl, rfl, by decide, by decide, by unfold UnknownWord; decide⟩

/-- The first PC that does not fetch. -/
theorem test_witness_FetchFaultKeepsPc :
    let s := { State.reset with pc := 0xFFF#16 }
    s.ExecutorsTurn ∧ s.run = .running ∧ 4094 < s.pc.toNat := ⟨.inl rfl, rfl, by decide⟩

theorem test_witness_HaltedExecutorHasNoStep :
    let s := { State.reset with run := .halted .stackOverflow }
    let u := { queued [.tick] with run := .halted .stackOverflow, timerOn := true }
    (s.ExecutorsTurn ∧ s.run = .halted .stackOverflow) ∧
    (({ State.reset with run := .stopped } : State).ExecutorsTurn ∧ ({ State.reset with run := .stopped } : State).run = .stopped) ∧
    u.run = .halted .stackOverflow ∧ u.agenda = .tick :: [] ∧ u.timerOn = true :=
  ⟨⟨.inl rfl, rfl⟩, ⟨.inl rfl, rfl⟩, rfl, rfl, rfl⟩

theorem test_witness_OnlyInitRestarts : ∀ a ∈ [Machine.Action.init defaultFont, .shutdown, .setKey 1 true],
    ({ queued [a] with run := .halted .stackOverflow } : State).run ≠ .running ∧
    ∃ t, step { queued [a] with run := .halted .stackOverflow } = .next t := by
  intro a ha
  refine ⟨fun h => RunState.noConfusion h, ?_⟩
  simp only [List.mem_cons, List.not_mem_nil, or_false] at ha
  rcases ha with rfl | rfl | rfl <;> exact ⟨_, rfl⟩

/-- One instruction of each kind that faults, at the first operand that does. -/
theorem test_witness_InstructionFaultsArePrecise :
    (∃ t, exec .ret State.reset = .next t ∧ t.run ≠ .running) ∧
    (∃ t, exec (.call 0x300) { State.reset with sp := 16 } = .next t ∧ t.run ≠ .running) ∧
    (∃ t, exec (.drw 1 2 2) { State.reset with i := 0xFFF } = .next t ∧ t.run ≠ .running) ∧
    (∃ t, exec (.ldBcd 1) { State.reset with i := 0xFFE } = .next t ∧ t.run ≠ .running) ∧
    (∃ t, exec (.storeRegs 15) { State.reset with i := 0xFF1 } = .next t ∧ t.run ≠ .running) ∧
    (∃ t, exec (.loadRegs 1) { State.reset with i := 0xFFF } = .next t ∧ t.run ≠ .running) :=
  ⟨⟨_, rfl, by decide⟩, ⟨_, rfl, by decide⟩, ⟨_, rfl, by decide⟩, ⟨_, rfl, by decide⟩, ⟨_, rfl, by decide⟩, ⟨_, rfl, by decide⟩⟩

/-- RUN Running with a step that raises a fault, Halted and Stopped. -/
theorem test_witness_StepKeepsOneFatal :
    (({ State.reset with pc := 0xFFF#16 } : State).OneFatal ∧ ∃ t, step { State.reset with pc := 0xFFF#16 } = .next t) ∧
    (let s := { queued [.shutdown] with run := .halted .stackOverflow, trace := [.fault (.stackOverflow 0x200)] }
     s.OneFatal ∧ ∃ t, step s = .next t) ∧
    let s := { queued [.startTimer] with run := .stopped }
    s.OneFatal ∧ ∃ t, step s = .next t := ⟨⟨rfl, _, rfl⟩, ⟨rfl, _, rfl⟩, rfl, _, rfl⟩

/-- An instruction that is no control transfer, and one that is but faults. -/
theorem test_witness_PcAdvancesByTwo :
    (let s := placed 0xFFE#16 0x6A0F#16
     s.ExecutorsTurn ∧ s.run = .running ∧ s.pc.toNat ≤ 4094 ∧
     decode (s.readByte s.pc.toNat ++ s.readByte (s.pc.toNat + 1)) = .ok (.ldImm 0xA 0x0F) ∧
     (∃ t, step s = .next t) ∧ (Instr.ldImm 0xA 0x0F).controlTransfer = false) ∧
    (let s := placed 0x200#16 0x00EE#16
     s.ExecutorsTurn ∧ s.run = .running ∧ s.pc.toNat ≤ 4094 ∧
     decode (s.readByte s.pc.toNat ++ s.readByte (s.pc.toNat + 1)) = .ok .ret ∧ ∃ t, step s = .next t ∧ t.run ≠ .running) :=
  ⟨⟨.inl rfl, rfl, by decide, by decide, ⟨_, rfl⟩, rfl⟩, .inl rfl, rfl, by decide, by decide, ⟨_, rfl, by decide⟩⟩

/-- The largest PC, and a call that pushes the largest return address (TF6). -/
theorem test_witness_StepKeepsPcInRange :
    (({ State.reset with pc := 0x10FE#16 } : State).PcInRange ∧ ∃ t, step { State.reset with pc := 0x10FE#16 } = .next t) ∧
    (placed 0xFFE#16 0x2300#16).PcInRange ∧ ∃ t, step (placed 0xFFE#16 0x2300#16) = .next t ∧ t.stack[0] = 0x1000#16 := by
  refine ⟨⟨⟨by decide, by decide⟩, _, rfl⟩, ⟨by decide, by decide⟩, _, rfl, by decide⟩

theorem test_witness_SelfJumpAndKeyWaitIdle :
    (let s := { placed 0x200#16 0x1200#16 with loadTime := false }
     s.agenda = [] ∧ s.loadTime = false ∧ s.run = .running ∧ s.pc.toNat ≤ 4094 ∧
     decode (s.readByte s.pc.toNat ++ s.readByte (s.pc.toNat + 1)) = .ok (.jp 0x200) ∧ (0x200#12).toNat = s.pc.toNat) ∧
    (let s := { placed 0x200#16 0xF10A#16 with loadTime := false }
     s.agenda = [] ∧ s.loadTime = false ∧ s.run = .running ∧ s.pc.toNat ≤ 4094 ∧
     decode (s.readByte s.pc.toNat ++ s.readByte (s.pc.toNat + 1)) = .ok (.ldVxKey 1) ∧ ∀ k, s.keyDown k = false) :=
  ⟨⟨rfl, rfl, rfl, by decide, by decide, rfl⟩, rfl, rfl, rfl, by decide, by decide, by decide⟩

/-- SP at 0, 1 and 16. -/
theorem test_witness_RetPopsOrUnderflows : State.reset.sp.val = 0 ∧
    ({ State.reset with sp := 1 } : State).sp.val = 0 + 1 ∧ ({ State.reset with sp := 16 } : State).sp.val = 15 + 1 := by decide

/-- SP at 15 and 16. -/
theorem test_witness_CallPushesOrOverflows_and_CallThenReturnComesBack :
    ({ State.reset with sp := 15 } : State).sp.val < 16 ∧ ({ State.reset with sp := 16 } : State).sp.val = 16 := by decide

theorem test_witness_SkipsOnImmediate_and_SkipsOnRegisters :
    (regs 0 7 7 0).getV 1 = 7 ∧ (regs 0 7 8 0).getV 1 ≠ 8 ∧ (regs 0 7 7 0).getV 1 = (regs 0 7 7 0).getV 2 ∧
    (regs 0 7 8 0).getV 1 ≠ (regs 0 7 8 0).getV 2 := by decide

/-- A register above 15, its key down and up. -/
theorem test_witness_SkipsOnKeys : (5#4).toNat = ((regs 0 0x15 0 0).getV 1).toNat % 16 ∧
    ((regs 0 0x15 0 0).setKey 5 true).keyDown 5 = true ∧ (regs 0 0x15 0 0).keyDown 5 = false := by decide

/-- The register hypotheses of the arithmetic statements: a register other than the destination and VF. -/
theorem test_witness_register_frames : (2#4) ≠ 1#4 ∧ (2#4) ≠ 0xF#4 ∧ (1#4) ≠ 0xF#4 := by decide

theorem test_witness_OnlyListedRegistersAreWritten :
    (∃ t, exec (.addReg 1 2) State.reset = .next t) ∧ (Instr.addReg 1 2).mayWrite 2 = false := ⟨⟨_, rfl⟩, by decide⟩

/-- The last I that passes and the first that does not. -/
theorem test_witness_BcdStoresDigits : State.reset.MemCanonical ∧ (0xFFD#16).toNat + 2 ≤ 4095 ∧ 4095 < (0xFFE#16).toNat + 2 :=
  ⟨Memory.wf_nil, by decide, by decide⟩
theorem test_witness_StoreRegistersDumps_LoadRegistersFills_StoreThenLoadRestores : State.reset.MemCanonical ∧
    (0xFF0#16).toNat + (15#4).toNat ≤ 4095 ∧ 4095 < (0xFF1#16).toNat + (15#4).toNat ∧ (3#4).toNat ≤ (15#4).toNat ∧
    (1#4).toNat < (3#4).toNat := ⟨Memory.wf_nil, by decide, by decide, by decide, by decide⟩

/-- The store reaches the last byte of memory, and the next fetch reads it. -/
theorem test_witness_StoreIsSeenByNextFetch :
    let s := { State.reset with i := 0xFFE#16, pc := 0xFFE#16 }
    s.MemCanonical ∧ s.i.toNat + (1#4).toNat ≤ 4095 ∧ (1#4).toNat = (0#4).toNat + 1 ∧ (1#4).toNat ≤ (1#4).toNat ∧
    s.pc.toNat = s.i.toNat + (0#4).toNat := ⟨Memory.wf_nil, by decide, by decide, by decide, by decide⟩

/-- A step that stores over the font. -/
theorem test_witness_StepKeepsMemoryCanonical :
    (placed 0x200#16 0xF055#16).MemCanonical ∧ ∃ t, step (placed 0x200#16 0xF055#16) = .next t ∧ t.readByte 0 = 0 :=
  ⟨by unfold State.MemCanonical; decide, _, rfl, by decide⟩

/-- N = 0 with I out of memory, a range that ends at 4095, and one that passes it. -/
theorem test_witness_DrawTogglesTheSprite_ranges :
    ((0#4).toNat = 0 ∨ (0xFFFF#16).toNat + (0#4).toNat - 1 ≤ 4095) ∧ ((2#4).toNat = 0 ∨ (0xFFE#16).toNat + (2#4).toNat - 1 ≤ 4095) ∧
    0 < (2#4).toNat ∧ 4095 < (0xFFF#16).toNat + (2#4).toNat - 1 := by decide

/-- TD7's sprite, 80 at 0xFFF: it covers (0,0) and not (1,0); with (0,0) set there is a hit. -/
theorem test_witness_DrawTogglesTheSprite_pixels :
    let s := lit 0 0 ({ State.reset with i := 0xFFF }.writeByte 0xFFF 0x80)
    (s.SpriteCovers 1 2 1 0 0 ∧ Display.pixel s.disp 0 0 = true) ∧ ¬ s.SpriteCovers 1 2 1 1 0 := by
  refine ⟨⟨⟨0, by decide, 0, by decide, by decide, by decide, by decide⟩, by decide⟩, ?_⟩
  rintro ⟨row, hr, col, hc, hb, hx, -⟩
  have hv : (State.getV (lit 0 0 ({ State.reset with i := 0xFFF }.writeByte 0xFFF 0x80)) 1).toNat = 0 := by decide
  have hr0 : row = 0 := by have : row < 1 := hr; omega
  subst hr0
  rw [hv] at hx
  have hc1 : col = 1 := by have : (1 : Fin 64).val = 1 := rfl; omega
  subst hc1
  revert hb; decide

/-- No covered pixel is set on a clear display. -/
theorem test_witness_DrawTogglesTheSprite_no_hit : ∀ px py, State.reset.SpriteCovers 1 2 5 px py →
    Display.pixel State.reset.disp px py = false := fun px py _ => Display.pixel_clear px py

theorem test_witness_DrawingTwiceRestores : (1#4) ≠ 0xF#4 ∧ (2#4) ≠ 0xF#4 ∧
    ((2#4).toNat = 0 ∨ (0xFFE#16).toNat + (2#4).toNat - 1 ≤ 4095) := by decide

theorem test_witness_KeyWaitTakesAPressedKey :
    (∀ k, State.reset.keyDown k = false) ∧ ∃ k, ((State.reset.setKey 3 true).setKey 9 true).keyDown k = true :=
  ⟨by decide, 9, by decide⟩

/-- Each kind of state has an instruction that changes it. -/
theorem test_witness_AgentsKeepToTheirState :
    (∃ t, exec .cls (lit 0 0 State.reset) = .next t ∧ Display.pixel t.disp 0 0 ≠ Display.pixel (lit 0 0 State.reset).disp 0 0) ∧
    (∃ t, exec (.storeRegs 0) State.reset = .next t ∧ t.mem ≠ State.reset.mem) ∧
    (∃ t, exec (.call 0) State.reset = .next t ∧ t.sp ≠ State.reset.sp ∧ t.stack[0] ≠ State.reset.stack[0]) ∧
    (∃ t, exec (.ldI 1) State.reset = .next t ∧ t.i ≠ State.reset.i) ∧
    (∃ t, exec (.ldDtVx 1) (regs 0 9 0 0) = .next t ∧ t.dt ≠ State.reset.dt) ∧
    (∃ t, exec (.ldStVx 1) (regs 0 9 0 0) = .next t ∧ t.st ≠ State.reset.st) :=
  ⟨⟨_, rfl, by decide⟩, ⟨_, rfl, by decide⟩, ⟨_, rfl, by decide, by decide⟩, ⟨_, rfl, by decide⟩, ⟨_, rfl, by decide⟩,
    ⟨_, rfl, by decide⟩⟩

end Sys2Proof.Tests
end

section
/-! SUPPORT. Control transfer (spec/40_flow.md R121 to R128): the words of its rows, what each of its instructions does to the
state, and the statements of the family settled from these. -/

namespace Sys2Proof.Machine

/-! ## The words of the rows (R95) -/

theorem rowDecodes_jp : RowDecodes 0xF000#16 0x1000#16 (fun op => .jp (fieldNNN op)) := fun op h => by
  have hop : fieldOp op = 0x1#4 := fieldOp_of_maskHigh h
  simp only [decode, hop]

theorem rowDecodes_call : RowDecodes 0xF000#16 0x2000#16 (fun op => .call (fieldNNN op)) := fun op h => by
  have hop : fieldOp op = 0x2#4 := fieldOp_of_maskHigh h
  simp only [decode, hop]

theorem rowDecodes_seImm : RowDecodes 0xF000#16 0x3000#16 (fun op => .seImm (fieldX op) (fieldNN op)) := fun op h => by
  have hop : fieldOp op = 0x3#4 := fieldOp_of_maskHigh h
  simp only [decode, hop]

theorem rowDecodes_sneImm : RowDecodes 0xF000#16 0x4000#16 (fun op => .sneImm (fieldX op) (fieldNN op)) := fun op h => by
  have hop : fieldOp op = 0x4#4 := fieldOp_of_maskHigh h
  simp only [decode, hop]

/-- The low nibble of 5XY0 has to be 0 (decision D6). -/
theorem rowDecodes_seReg : RowDecodes 0xF00F#16 0x5000#16 (fun op => .seReg (fieldX op) (fieldY op)) := fun op h => by
  obtain ⟨hop, hn⟩ : fieldOp op = 0x5#4 ∧ fieldN op = 0 := fields_of_maskHighLow h
  simp only [decode, hop, hn, if_true]

/-- The low nibble of 9XY0 has to be 0 (decision D6). -/
theorem rowDecodes_sneReg : RowDecodes 0xF00F#16 0x9000#16 (fun op => .sneReg (fieldX op) (fieldY op)) := fun op h => by
  obtain ⟨hop, hn⟩ : fieldOp op = 0x9#4 ∧ fieldN op = 0 := fields_of_maskHighLow h
  simp only [decode, hop, hn, if_true]

theorem rowDecodes_jpV0 : RowDecodes 0xF000#16 0xB000#16 (fun op => .jpV0 (fieldNNN op)) := fun op h => by
  have hop : fieldOp op = 0xB#4 := fieldOp_of_maskHigh h
  simp only [decode, hop]

/-! ## Operands and shared effects -/

@[simp] theorem zextAddr_toNat (nnn : Addr) : (zextAddr nnn).toNat = nnn.toNat :=
  BitVec.toNat_setWidth_of_le (by decide)

@[simp] theorem zextByte_toNat (b : Byte) : (zextByte b).toNat = b.toNat :=
  BitVec.toNat_setWidth_of_le (by decide)

/-- The target of BNNN stays below 2^16, so the sum does not wrap (R124). -/
theorem zextAddr_add_zextByte_toNat (nnn : Addr) (b : Byte) :
    (zextAddr nnn + zextByte b).toNat = nnn.toNat + b.toNat := by
  have := nnn.isLt; have := b.isLt
  rw [BitVec.toNat_add, zextAddr_toNat, zextByte_toNat]; omega

/-- Setting PC changes nothing but PC. -/
theorem State.setPc_restore (s : State) (w : Word) : { s.setPc w with pc := s.pc } = s := rfl

/-- A fatal condition changes RUN and the trace only (R228). -/
theorem State.raise_eq (s : State) (f : Fatal) :
    s.raise f = { s with run := .halted f.name, trace := s.trace ++ [.fault f] } := rfl

theorem State.readByte_skipIf (s : State) (c : Bool) (a : Nat) : (s.skipIf c).readByte a = s.readByte a := by
  rw [State.skipIf_eq]; rfl

theorem State.skipIf_restore (s : State) (c : Bool) : { s.skipIf c with pc := s.pc } = s := by
  rw [State.skipIf_eq]

/-! ## Skips (R120(e), R125 to R128) -/

/-- An instruction that is a skip on `c` adds 2 to PC where `P` makes `c` true, keeps PC where `Q` makes it false, and changes
nothing else. -/
theorem exec_skip {i : Instr} {s : State} {c : Bool} {P Q : Prop} (he : exec i s = .next (s.skipIf c))
    (hP : P → c = true) (hQ : Q → c = false) :
    ∃ t, exec i s = .next t ∧ (P → t.pc = s.pc + 2#16) ∧ (Q → t.pc = s.pc) ∧
      (∀ a, t.readByte a = s.readByte a) ∧ { t with pc := s.pc } = s :=
  ⟨s.skipIf c, he, fun p => by simp [State.skipIf_pc, hP p], fun q => by simp [State.skipIf_pc, hQ q],
    s.readByte_skipIf c, s.skipIf_restore c⟩

theorem exec_seImm (x : Nibble) (nn : Byte) (s : State) :
    exec (.seImm x nn) s = .next (s.skipIf (s.getV x == nn)) := rfl

theorem exec_sneImm (x : Nibble) (nn : Byte) (s : State) :
    exec (.sneImm x nn) s = .next (s.skipIf (s.getV x != nn)) := rfl

theorem exec_seReg (x y : Nibble) (s : State) :
    exec (.seReg x y) s = .next (s.skipIf (s.getV x == s.getV y)) := rfl

theorem exec_sneReg (x y : Nibble) (s : State) :
    exec (.sneReg x y) s = .next (s.skipIf (s.getV x != s.getV y)) := rfl

/-! ## Return and call (R121, R123) -/

theorem exec_ret_of_empty {s : State} (h : s.sp.val = 0) :
    exec .ret s = .next (s.raise (.stackUnderflow s.instrAddr)) := by
  simp only [exec, execRet, State.pop_eq_none.2 h]

/-- A return from a stack of n + 1 entries goes to entry n and drops it, writing SP and PC only. -/
theorem exec_ret_of_succ {s : State} {n : Nat} (hn : n < 16) (h : s.sp.val = n + 1) :
    ∃ sp : Fin 17, sp.val = n ∧ exec .ret s = .next ({ s with sp := sp }.setPc s.stack[n]) := by
  cases hp : s.pop with
  | none => have := State.pop_eq_none.1 hp; omega
  | some r =>
    obtain ⟨w, t⟩ := r
    obtain ⟨_, -, hsp, hw, ht⟩ := State.pop_eq_some hp
    simp only [h, Nat.add_sub_cancel] at hsp hw
    refine ⟨t.sp, hsp, ?_⟩
    rw [← ht, ← hw]
    simp only [exec, execRet, hp]

theorem exec_call_of_full {s : State} (nnn : Addr) (h : s.sp.val = 16) :
    exec (.call nnn) s = .next (s.raise (.stackOverflow s.instrAddr)) := by
  simp only [exec, execCall, State.push_eq_none.2 h]

/-- A call on a stack with room puts the advanced PC in the entry at SP, writing SP, PC and that entry only. -/
theorem exec_call_of_lt {s : State} (nnn : Addr) (h : s.sp.val < 16) :
    ∃ sp : Fin 17, sp.val = s.sp.val + 1 ∧ exec (.call nnn) s =
      .next ({ s with stack := s.stack.set s.sp.val s.pc h, sp := sp }.setPc (zextAddr nnn)) := by
  cases hp : s.push s.pc with
  | none => have := State.push_eq_none.1 hp; omega
  | some t =>
    obtain ⟨_, hsp, hstack, ht⟩ := State.push_eq_some hp
    refine ⟨t.sp, hsp, ?_⟩
    rw [← hstack, ← ht]
    simp only [exec, execCall, hp]

/-! ## The statements -/

/-- Settles O29: the two cases of SP are the two cases of a pop. -/
theorem retPopsOrUnderflows : Obligations.RetPopsOrUnderflows := by
  refine ⟨rfl, fun s => ⟨fun h => ?_, fun n hn h => ?_⟩⟩
  · rw [exec_ret_of_empty h, State.raise_eq]; rfl
  · obtain ⟨sp, hsp, he⟩ := exec_ret_of_succ hn h
    exact ⟨_, he, hsp, rfl, fun _ => rfl, rfl⟩

/-- Settles O30: the two cases of SP are the two cases of a push. -/
theorem callPushesOrOverflows : Obligations.CallPushesOrOverflows := by
  refine ⟨rowDecodes_call, fun nnn s => ⟨fun h => ?_, fun h => ?_⟩⟩
  · rw [exec_call_of_full nnn h, State.raise_eq]; rfl
  · obtain ⟨sp, hsp, he⟩ := exec_call_of_lt nnn h
    refine ⟨_, he, hsp, zextAddr_toNat nnn, fun k => ?_, fun _ => rfl, rfl⟩
    simp [Vector.getElem_set, eq_comm]

/-- Settles O32: both jumps only set PC, and the sum of BNNN cannot wrap. -/
theorem jumpsSetPc : Obligations.JumpsSetPc :=
  ⟨⟨rowDecodes_jp, fun nnn s =>
      ⟨s.setPc (zextAddr nnn), rfl, zextAddr_toNat nnn, s.readByte_setPc _, s.setPc_restore _⟩⟩,
    ⟨rowDecodes_jpV0, fun nnn s =>
      ⟨s.setPc (zextAddr nnn + zextByte (s.getV 0x0#4)), rfl, zextAddr_add_zextByte_toNat nnn _,
        s.readByte_setPc _, s.setPc_restore _⟩⟩⟩

/-- Settles O33: both instructions are skips, on Vx = NN and on its negation. -/
theorem skipsOnImmediate : Obligations.SkipsOnImmediate :=
  ⟨⟨rowDecodes_seImm, fun x nn s => exec_skip (exec_seImm x nn s) beq_iff_eq.2 beq_false_of_ne⟩,
    ⟨rowDecodes_sneImm, fun x nn s => exec_skip (exec_sneImm x nn s) bne_iff_ne.2 bne_eq_false_iff_eq.2⟩⟩

/-- Settles O34: both instructions are skips, on Vx = Vy and on its negation. -/
theorem skipsOnRegisters : Obligations.SkipsOnRegisters :=
  ⟨⟨rowDecodes_seReg, fun x y s => exec_skip (exec_seReg x y s) beq_iff_eq.2 beq_false_of_ne⟩,
    ⟨rowDecodes_sneReg, fun x y s => exec_skip (exec_sneReg x y s) bne_iff_ne.2 bne_eq_false_iff_eq.2⟩⟩

end Sys2Proof.Machine
end

section
/-! SUPPORT. Register and arithmetic instructions (spec/41_alu.md R143 to R150, spec/42_index_memory.md R170): the words of its
rows, what a write of one register and a result with its flag leave unchanged, what each of its instructions does to the state,
and the statements of the family settled from these. -/

namespace Sys2Proof.Machine

/-! ## The words of the rows (R95) -/

theorem rowDecodes_ldImm : RowDecodes 0xF000#16 0x6000#16 (fun op => .ldImm (fieldX op) (fieldNN op)) := fun op h => by
  have hop : fieldOp op = 0x6#4 := fieldOp_of_maskHigh h
  simp only [decode, hop]

theorem rowDecodes_addImm : RowDecodes 0xF000#16 0x7000#16 (fun op => .addImm (fieldX op) (fieldNN op)) := fun op h => by
  have hop : fieldOp op = 0x7#4 := fieldOp_of_maskHigh h
  simp only [decode, hop]

theorem rowDecodes_ldI : RowDecodes 0xF000#16 0xA000#16 (fun op => .ldI (fieldNNN op)) := fun op h => by
  have hop : fieldOp op = 0xA#4 := fieldOp_of_maskHigh h
  simp only [decode, hop]

/-- A row of the words 8XYn is what `decodeEight` answers on its low nibble. -/
theorem rowDecodes_eight {value : Word} {instr : Word → Instr} (hvalue : fieldOp value = 0x8#4)
    (hlow : ∀ op, fieldN op = fieldN value → decodeEight op = .ok (instr op)) : RowDecodes 0xF00F#16 value instr :=
  fun op h => by
    obtain ⟨hop, hn⟩ := fields_of_maskHighLow h
    simp only [decode, hop.trans hvalue, hlow op hn]

theorem rowDecodes_ldReg : RowDecodes 0xF00F#16 0x8000#16 (fun op => .ldReg (fieldX op) (fieldY op)) :=
  rowDecodes_eight rfl fun op (hn : fieldN op = 0x0#4) => by simp only [decodeEight, hn]

theorem rowDecodes_orReg : RowDecodes 0xF00F#16 0x8001#16 (fun op => .orReg (fieldX op) (fieldY op)) :=
  rowDecodes_eight rfl fun op (hn : fieldN op = 0x1#4) => by simp only [decodeEight, hn]

theorem rowDecodes_andReg : RowDecodes 0xF00F#16 0x8002#16 (fun op => .andReg (fieldX op) (fieldY op)) :=
  rowDecodes_eight rfl fun op (hn : fieldN op = 0x2#4) => by simp only [decodeEight, hn]

theorem rowDecodes_xorReg : RowDecodes 0xF00F#16 0x8003#16 (fun op => .xorReg (fieldX op) (fieldY op)) :=
  rowDecodes_eight rfl fun op (hn : fieldN op = 0x3#4) => by simp only [decodeEight, hn]

theorem rowDecodes_addReg : RowDecodes 0xF00F#16 0x8004#16 (fun op => .addReg (fieldX op) (fieldY op)) :=
  rowDecodes_eight rfl fun op (hn : fieldN op = 0x4#4) => by simp only [decodeEight, hn]

theorem rowDecodes_subReg : RowDecodes 0xF00F#16 0x8005#16 (fun op => .subReg (fieldX op) (fieldY op)) :=
  rowDecodes_eight rfl fun op (hn : fieldN op = 0x5#4) => by simp only [decodeEight, hn]

/-! ## Register writes and what they leave unchanged -/

/-- Setting I changes nothing but I. -/
theorem State.setI_restore (s : State) (w : Word) : { s.setI w with i := s.i } = s := rfl

/-- A write of one general register leaves the other registers, memory and every other field as they were. -/
theorem State.setV_frame (s : State) (x : Nibble) (b : Byte) :
    (∀ k, k ≠ x → (s.setV x b).getV k = s.getV k) ∧ (∀ a, (s.setV x b).readByte a = s.readByte a) ∧
      { s.setV x b with v := s.v } = s :=
  ⟨fun _ hk => s.getV_setV_of_ne b hk, s.readByte_setV x b, rfl⟩

/-- The flag is written last, so VF holds it for every x (R141). -/
theorem State.getV_vf_setResultFlag (s : State) (x : Nibble) (r f : Byte) : (s.setResultFlag x r f).getV vf = f := by
  rw [State.getV_setResultFlag, if_pos rfl]

theorem State.getV_setResultFlag_self (s : State) {x : Nibble} (r f : Byte) (hx : x ≠ vf) :
    (s.setResultFlag x r f).getV x = r := by
  rw [State.getV_setResultFlag, if_neg hx, if_pos rfl]

/-- A result with its flag leaves the registers besides Vx and VF, memory and every other field as they were. -/
theorem State.setResultFlag_frame (s : State) (x : Nibble) (r f : Byte) :
    (∀ k, k ≠ x → k ≠ vf → (s.setResultFlag x r f).getV k = s.getV k) ∧
      (∀ a, (s.setResultFlag x r f).readByte a = s.readByte a) ∧ { s.setResultFlag x r f with v := s.v } = s := by
  refine ⟨fun k hx hf => ?_, fun _ => rfl, rfl⟩
  rw [State.getV_setResultFlag, if_neg hf, if_neg hx]

/-! ## Flags (R24) -/

theorem flagByte_decide (p : Prop) [Decidable p] : flagByte (decide p) = if p then 1#8 else 0#8 := by
  simp only [flagByte, decide_eq_true_eq]

theorem carryFlag_eq (a b : Byte) : carryFlag a b = if 255 < a.toNat + b.toNat then 1#8 else 0#8 := flagByte_decide _

/-- The comparison is strict: equal operands give 0 (R142). -/
theorem greaterFlag_eq (a b : Byte) : greaterFlag a b = if b.toNat < a.toNat then 1#8 else 0#8 := flagByte_decide _

/-- The difference modulo 256 with the 256 borrowed first, so that no subtraction of naturals is cut off at 0. -/
theorem byte_sub_toNat (a b : Byte) : (a - b).toNat = (a.toNat + 256 - b.toNat) % 256 := by
  have := b.isLt
  rw [BitVec.toNat_sub]; omega

/-! ## What each instruction does -/

theorem exec_ldImm (x : Nibble) (nn : Byte) (s : State) : exec (.ldImm x nn) s = .next (s.setV x nn) := rfl

theorem exec_ldI (nnn : Addr) (s : State) : exec (.ldI nnn) s = .next (s.setI (zextAddr nnn)) := rfl

theorem exec_addImm (x : Nibble) (nn : Byte) (s : State) :
    exec (.addImm x nn) s = .next (s.setV x (s.getV x + nn)) := rfl

theorem exec_ldReg (x y : Nibble) (s : State) : exec (.ldReg x y) s = .next (s.setV x (s.getV y)) := rfl

theorem exec_orReg (x y : Nibble) (s : State) :
    exec (.orReg x y) s = .next (s.setV x (s.getV x ||| s.getV y)) := rfl

theorem exec_andReg (x y : Nibble) (s : State) :
    exec (.andReg x y) s = .next (s.setV x (s.getV x &&& s.getV y)) := rfl

theorem exec_xorReg (x y : Nibble) (s : State) :
    exec (.xorReg x y) s = .next (s.setV x (s.getV x ^^^ s.getV y)) := rfl

theorem exec_addReg (x y : Nibble) (s : State) : exec (.addReg x y) s =
    .next (s.setResultFlag x (s.getV x + s.getV y) (carryFlag (s.getV x) (s.getV y))) := rfl

theorem exec_subReg (x y : Nibble) (s : State) : exec (.subReg x y) s =
    .next (s.setResultFlag x (s.getV x - s.getV y) (greaterFlag (s.getV x) (s.getV y))) := rfl

/-! ## The statements -/

/-- Settles O36: one instruction is a write of Vx, the other a write of I. -/
theorem loadImmediates : Obligations.LoadImmediates :=
  ⟨⟨rowDecodes_ldImm, fun x nn s => ⟨_, exec_ldImm x nn s, s.getV_setV_self x nn, s.setV_frame x nn⟩⟩,
    ⟨rowDecodes_ldI, fun nnn s =>
      ⟨_, exec_ldI nnn s, zextAddr_toNat nnn, s.readByte_setI _, s.setI_restore _⟩⟩⟩

/-- Settles O37: both instructions are a write of Vx, with no flag. -/
theorem immediateAddAndCopy : Obligations.ImmediateAddAndCopy := by
  refine ⟨⟨rowDecodes_addImm, fun x nn s => ⟨_, exec_addImm x nn s, ?_, s.setV_frame x _⟩⟩,
    ⟨rowDecodes_ldReg, fun x y s => ⟨_, exec_ldReg x y s, s.getV_setV_self x _, s.setV_frame x _⟩⟩⟩
  rw [State.getV_setV_self, BitVec.toNat_add]

/-- Settles O38: the three instructions are a write of Vx, each bit of which is the operation on that bit. -/
theorem logicInstructions : Obligations.LogicInstructions := by
  refine ⟨⟨rowDecodes_orReg, fun x y s => ⟨_, exec_orReg x y s, fun n => ?_, s.setV_frame x _⟩⟩,
    ⟨rowDecodes_andReg, fun x y s => ⟨_, exec_andReg x y s, fun n => ?_, s.setV_frame x _⟩⟩,
    ⟨rowDecodes_xorReg, fun x y s => ⟨_, exec_xorReg x y s, fun n => ?_, s.setV_frame x _⟩⟩⟩
  · rw [State.getV_setV_self, BitVec.getLsbD_or]
  · rw [State.getV_setV_self, BitVec.getLsbD_and]
  · rw [State.getV_setV_self, BitVec.getLsbD_xor, Bool.bne_eq_xor]

/-- Settles O39: the sum and its carry are a result with its flag. -/
theorem addSetsCarry : Obligations.AddSetsCarry := by
  refine ⟨rowDecodes_addReg, fun x y s => ⟨_, exec_addReg x y s, fun hx => ?_, ?_, s.setResultFlag_frame x _ _⟩⟩
  · rw [s.getV_setResultFlag_self _ _ hx, BitVec.toNat_add]
  · exact (s.getV_vf_setResultFlag x _ _).trans (carryFlag_eq _ _)

/-- Settles O40: the difference and its strict comparison are a result with its flag. -/
theorem subSetsStrictFlag : Obligations.SubSetsStrictFlag := by
  refine ⟨rowDecodes_subReg, fun x y s => ⟨_, exec_subReg x y s, fun hx => ?_, ?_, s.setResultFlag_frame x _ _⟩⟩
  · rw [s.getV_setResultFlag_self _ _ hx, byte_sub_toNat]
  · exact (s.getV_vf_setResultFlag x _ _).trans (greaterFlag_eq _ _)

end Sys2Proof.Machine
end

section
/-! SUPPORT. Index and memory instructions (spec/42_index_memory.md R172): the words of its rows, what each of its instructions
does to the state, and the statement of the family settled from these. -/

namespace Sys2Proof.Machine

/-! ## The words of the rows (R95) -/

/-- `decode` reaches the words with high nibble F by its last case, which names no nibble. -/
theorem decode_of_fieldOp_f {op : Word} (hop : fieldOp op = 0xF#4) : decode op = decodeF op := by
  unfold decode
  rw [hop]
  rfl

/-- A row of the words FXnn is what `decodeF` answers on its low byte. -/
theorem rowDecodes_f {value : Word} {instr : Word → Instr} (hvalue : fieldOp value = 0xF#4)
    (hlow : ∀ op, fieldNN op = fieldNN value → decodeF op = .ok (instr op)) : RowDecodes 0xF0FF#16 value instr :=
  fun op h => by
    obtain ⟨hop, hnn⟩ := fields_of_maskHighByte h
    exact (decode_of_fieldOp_f (hop.trans hvalue)).trans (hlow op hnn)

theorem rowDecodes_ldFont : RowDecodes 0xF0FF#16 0xF029#16 (fun op => .ldFont (fieldX op)) :=
  rowDecodes_f rfl fun op (hnn : fieldNN op = 0x29#8) => by simp only [decodeF, hnn]

/-! ## What each instruction does -/

theorem exec_ldFont (x : Nibble) (s : State) : exec (.ldFont x) s = .next (s.setI (glyphAddr (s.getV x))) := rfl

/-! ## The statement -/

/-- Settles O45: the instruction is a write of I, with the address of the glyph. -/
theorem fontGlyphAddress : Obligations.FontGlyphAddress :=
  ⟨rowDecodes_ldFont, fun x s =>
    ⟨_, exec_ldFont x s, glyphAddr_toNat (s.getV x), s.readByte_setI _, s.setI_restore _⟩⟩

end Sys2Proof.Machine
end

section
/-! SUPPORT. Display instructions (spec/43_display.md R190): what the clear does to the state and leaves unchanged, and the
statement of the family settled from these. -/

namespace Sys2Proof.Machine

/-! ## The display write and the clear -/

/-- Setting the display changes nothing but the display. -/
theorem State.setDisp_restore (s : State) (d : Display) : { s.setDisp d with disp := s.disp } = s := rfl

theorem exec_cls (s : State) : exec .cls s = .next (s.setDisp clearDisplay) := rfl

/-! ## The statement -/

/-- Settles O54: the instruction is a write of the display, with the display on which no pixel is set. -/
theorem clsClearsEveryPixel : Obligations.ClsClearsEveryPixel :=
  ⟨rfl, fun s => ⟨_, exec_cls s, Display.pixel_clear, s.readByte_setDisp _, s.setDisp_restore _⟩⟩

end Sys2Proof.Machine
end

section
/-! SUPPORT. Interfaces and timers (spec/60_exceptions.md R241, R242, R245): what a key write does, what no instruction changes,
what one tick does to the timers, and the statements of the family settled from these. -/

namespace Sys2Proof.Machine

/-! ## The key write (R245) -/

theorem State.keyDown_setKey (s : State) (k j : Nibble) (b : Bool) :
    (s.setKey k b).keyDown j = if j = k then b else s.keyDown j := by
  simp only [State.keyDown, State.setKey, Vector.getElem_set, BitVec.toNat_inj, eq_comm]

theorem step_setKey {s : State} {k : Nibble} {b : Bool} {rest : List Action} (h : s.agenda = .setKey k b :: rest) :
    step s = .next (State.setKey { s with agenda := rest } k b) := step_of_agenda h

/-! ## What no instruction changes (R37, R38, R40, R44) -/

/-- The state that belongs to the host and the TimerService: the keys, TONE, TIMER_ON, and the model's agenda, load window and
answer. -/
def State.outsideExecutor (s : State) : Vector Bool 16 × Bool × Bool × List Action × Bool × Option Reply :=
  (s.keys, s.tone, s.timerOn, s.agenda, s.loadTime, s.reply)

theorem State.keys_eq_of_outsideExecutor {s t : State} (h : t.outsideExecutor = s.outsideExecutor) : t.keys = s.keys :=
  congrArg Prod.fst h

theorem State.outsideExecutor_skipIf (s : State) (c : Bool) : (s.skipIf c).outsideExecutor = s.outsideExecutor := by
  rw [State.skipIf_eq]; rfl

theorem State.outsideExecutor_setVs (s : State) (k : Nat) (bs : List Byte) :
    (s.setVs k bs).outsideExecutor = s.outsideExecutor := by
  rw [State.setVs_eq]; rfl

theorem State.outsideExecutor_writeBytes (s : State) (a : Nat) (bs : List Byte) :
    (s.writeBytes a bs).outsideExecutor = s.outsideExecutor := by
  rw [State.writeBytes_eq]; rfl

/-- The range check keeps what its effect keeps, since a fatal condition changes RUN and the trace only. -/
theorem State.outsideExecutor_checkRange {s effect : State} (count : Nat)
    (he : effect.outsideExecutor = s.outsideExecutor) :
    (s.checkRange count effect).outsideExecutor = s.outsideExecutor := by
  obtain ⟨-, h⟩ | ⟨-, h⟩ := s.checkRange_cases count effect
  · rw [h, he]
  · rw [h]; rfl

theorem outsideExecutor_of_exec_ret {s t : State} (h : exec .ret s = .next t) :
    t.outsideExecutor = s.outsideExecutor := by
  cases hsp : s.sp.val with
  | zero => rw [exec_ret_of_empty hsp] at h; cases h; rfl
  | succ n =>
    obtain ⟨sp, -, he⟩ := exec_ret_of_succ (by omega) hsp
    rw [he] at h; cases h; rfl

theorem outsideExecutor_of_exec_call {s t : State} {nnn : Addr} (h : exec (.call nnn) s = .next t) :
    t.outsideExecutor = s.outsideExecutor := by
  by_cases hsp : s.sp.val < 16
  · obtain ⟨sp, -, he⟩ := exec_call_of_lt nnn hsp
    rw [he] at h; cases h; rfl
  · rw [exec_call_of_full nnn (by omega)] at h; cases h; rfl

theorem outsideExecutor_of_exec_ldVxKey {s t : State} {x : Nibble} (h : exec (.ldVxKey x) s = .next t) :
    t.outsideExecutor = s.outsideExecutor := by
  simp only [exec, execLdVxKey] at h
  split at h
  · cases h; rfl
  · cases h; rfl

/-- No instruction changes a key, TONE, TIMER_ON or the model's fields for the host. -/
theorem outsideExecutor_of_exec {i : Instr} {s t : State} (h : exec i s = .next t) :
    t.outsideExecutor = s.outsideExecutor := by
  cases i with
  | ret => exact outsideExecutor_of_exec_ret h
  | call => exact outsideExecutor_of_exec_call h
  | ldVxKey => exact outsideExecutor_of_exec_ldVxKey h
  | seImm | sneImm | seReg | sneReg | skp | sknp => cases h; exact s.outsideExecutor_skipIf _
  | drw => cases h; exact State.outsideExecutor_checkRange _ rfl
  | ldBcd | storeRegs => cases h; exact State.outsideExecutor_checkRange _ (s.outsideExecutor_writeBytes _ _)
  | loadRegs => cases h; exact State.outsideExecutor_checkRange _ (s.outsideExecutor_setVs _ _)
  | cls | jp | jpV0 | ldImm | addImm | ldReg | orReg | andReg | xorReg | addReg | subReg | shr | subn | shl | ldI | rnd
  | ldVxDt | ldDtVx | ldStVx | addI | ldFont => cases h; rfl

/-! ## The parts of a tick (R241, R242) -/

/-- Counting a byte down stops at 0, as the subtraction of naturals does. -/
theorem countDown_toNat (b : Byte) : (if 0 < b.toNat then b - 1#8 else b).toNat = b.toNat - 1 := by
  split
  · rw [byte_sub_toNat, BitVec.toNat_ofNat]; omega
  · omega

theorem State.tickDelay_dt (s : State) : s.tickDelay.dt = if 0 < s.dt.toNat then s.dt - 1#8 else s.dt := by
  unfold State.tickDelay; split <;> rfl

theorem State.tickSound_st (s : State) (s0 : Byte) : (s.tickSound s0).st = if 0 < s0.toNat then s0 - 1#8 else s.st := by
  unfold State.tickSound; split <;> rfl

@[simp] theorem State.tickDelay_st (s : State) : s.tickDelay.st = s.st := by
  unfold State.tickDelay; split <;> rfl

@[simp] theorem State.tickStart_dt (s : State) (s0 : Byte) : (s.tickStart s0).dt = s.dt := by
  unfold State.tickStart; split <;> rfl

@[simp] theorem State.tickStart_st (s : State) (s0 : Byte) : (s.tickStart s0).st = s.st := by
  unfold State.tickStart; split <;> rfl

@[simp] theorem State.tickSound_dt (s : State) (s0 : Byte) : (s.tickSound s0).dt = s.dt := by
  unfold State.tickSound; split <;> rfl

@[simp] theorem State.tickStop_dt (s : State) : s.tickStop.dt = s.dt := by
  unfold State.tickStop; split <;> rfl

@[simp] theorem State.tickStop_st (s : State) : s.tickStop.st = s.st := by
  unfold State.tickStop; split <;> rfl

/-! ## One tick and a run of ticks -/

@[simp] theorem State.tick_dt_toNat (s : State) : s.tick.dt.toNat = s.dt.toNat - 1 := by
  simp only [State.tick, tickStop_dt, tickSound_dt, tickStart_dt, tickDelay_dt, countDown_toNat]

@[simp] theorem State.tick_st_toNat (s : State) : s.tick.st.toNat = s.st.toNat - 1 := by
  simp only [State.tick, tickStop_st, tickSound_st, tickStart_st, tickDelay_st, countDown_toNat]

@[simp] theorem State.tick_keys (s : State) : s.tick.keys = s.keys := by rw [State.tick_eq]
@[simp] theorem State.tick_timerOn (s : State) : s.tick.timerOn = s.timerOn := by rw [State.tick_eq]
@[simp] theorem State.tick_agenda (s : State) : s.tick.agenda = s.agenda := by rw [State.tick_eq]

/-- A tick on the agenda happens while TIMER_ON (R240). -/
theorem step_tick {s : State} {rest : List Action} (hon : s.timerOn = true) (h : s.agenda = .tick :: rest) :
    step s = .next (State.tick { s with agenda := rest }) := by
  rw [step_of_agenda h]; exact if_pos hon

theorem steps_succ_of_next {s t : State} (k : Nat) (h : step s = .next t) : steps (k + 1) s = steps k t := by
  simp only [steps, h]

/-! ## The statements -/

/-- Settles O5: the key write, and the keys lie outside what an instruction or a tick changes. -/
theorem setKeyWritesOneKey : Obligations.SetKeyWritesOneKey :=
  ⟨fun _ k b _ h => ⟨_, step_setKey h, fun j => State.keyDown_setKey _ k j b, rfl⟩,
    fun _ _ _ h => State.keys_eq_of_outsideExecutor (outsideExecutor_of_exec h), State.tick_keys⟩

/-- Settles O8, by induction on the number of ticks: one tick takes 1 from each timer, stopping at 0. -/
theorem timersCountDownToZero : Obligations.TimersCountDownToZero := by
  intro k
  induction k with
  | zero => exact fun s _ _ => ⟨s, rfl, rfl, rfl⟩
  | succ k ih =>
    intro s hon hagenda
    obtain ⟨t, hsteps, hdt, hst⟩ := ih (State.tick { s with agenda := List.replicate k .tick })
      ((State.tick_timerOn _).trans hon) (State.tick_agenda _)
    refine ⟨t, (steps_succ_of_next k (step_tick hon hagenda)).trans hsteps, ?_, ?_⟩
    · rw [hdt, State.tick_dt_toNat, Nat.sub_sub, Nat.add_comm 1 k]
    · rw [hst, State.tick_st_toNat, Nat.sub_sub, Nat.add_comm 1 k]

end Sys2Proof.Machine
end

section
/-! SUPPORT. Decoding (spec/30_encoding.md R91 to R101): the rows the families before did not need, the inverse of the
encoder, and the statements on the opcode map settled from these. -/

namespace Sys2Proof.Machine

/-! ## The words of the remaining rows (R95) -/

theorem rowDecodes_shr : RowDecodes 0xF00F#16 0x8006#16 (fun op => .shr (fieldX op) (fieldY op)) :=
  rowDecodes_eight rfl fun op (hn : fieldN op = 0x6#4) => by simp only [decodeEight, hn]

theorem rowDecodes_subn : RowDecodes 0xF00F#16 0x8007#16 (fun op => .subn (fieldX op) (fieldY op)) :=
  rowDecodes_eight rfl fun op (hn : fieldN op = 0x7#4) => by simp only [decodeEight, hn]

theorem rowDecodes_shl : RowDecodes 0xF00F#16 0x800E#16 (fun op => .shl (fieldX op) (fieldY op)) :=
  rowDecodes_eight rfl fun op (hn : fieldN op = 0xE#4) => by simp only [decodeEight, hn]

theorem rowDecodes_rnd : RowDecodes 0xF000#16 0xC000#16 (fun op => .rnd (fieldX op) (fieldNN op)) := fun op h => by
  have hop : fieldOp op = 0xC#4 := fieldOp_of_maskHigh h
  simp only [decode, hop]

theorem rowDecodes_drw : RowDecodes 0xF000#16 0xD000#16 (fun op => .drw (fieldX op) (fieldY op) (fieldN op)) :=
  fun op h => by
    have hop : fieldOp op = 0xD#4 := fieldOp_of_maskHigh h
    simp only [decode, hop]

/-- A row of the words EXnn is what `decodeE` answers on its low byte. -/
theorem rowDecodes_e {value : Word} {instr : Word → Instr} (hvalue : fieldOp value = 0xE#4)
    (hlow : ∀ op, fieldNN op = fieldNN value → decodeE op = .ok (instr op)) : RowDecodes 0xF0FF#16 value instr :=
  fun op h => by
    obtain ⟨hop, hnn⟩ := fields_of_maskHighByte h
    simp only [decode, hop.trans hvalue, hlow op hnn]

theorem rowDecodes_skp : RowDecodes 0xF0FF#16 0xE09E#16 (fun op => .skp (fieldX op)) :=
  rowDecodes_e rfl fun op (hnn : fieldNN op = 0x9E#8) => by simp only [decodeE, hnn]

theorem rowDecodes_sknp : RowDecodes 0xF0FF#16 0xE0A1#16 (fun op => .sknp (fieldX op)) :=
  rowDecodes_e rfl fun op (hnn : fieldNN op = 0xA1#8) => by simp only [decodeE, hnn]

theorem rowDecodes_ldVxDt : RowDecodes 0xF0FF#16 0xF007#16 (fun op => .ldVxDt (fieldX op)) :=
  rowDecodes_f rfl fun op (hnn : fieldNN op = 0x07#8) => by simp only [decodeF, hnn]

theorem rowDecodes_ldVxKey : RowDecodes 0xF0FF#16 0xF00A#16 (fun op => .ldVxKey (fieldX op)) :=
  rowDecodes_f rfl fun op (hnn : fieldNN op = 0x0A#8) => by simp only [decodeF, hnn]

theorem rowDecodes_ldDtVx : RowDecodes 0xF0FF#16 0xF015#16 (fun op => .ldDtVx (fieldX op)) :=
  rowDecodes_f rfl fun op (hnn : fieldNN op = 0x15#8) => by simp only [decodeF, hnn]

theorem rowDecodes_ldStVx : RowDecodes 0xF0FF#16 0xF018#16 (fun op => .ldStVx (fieldX op)) :=
  rowDecodes_f rfl fun op (hnn : fieldNN op = 0x18#8) => by simp only [decodeF, hnn]

theorem rowDecodes_addI : RowDecodes 0xF0FF#16 0xF01E#16 (fun op => .addI (fieldX op)) :=
  rowDecodes_f rfl fun op (hnn : fieldNN op = 0x1E#8) => by simp only [decodeF, hnn]

theorem rowDecodes_ldBcd : RowDecodes 0xF0FF#16 0xF033#16 (fun op => .ldBcd (fieldX op)) :=
  rowDecodes_f rfl fun op (hnn : fieldNN op = 0x33#8) => by simp only [decodeF, hnn]

theorem rowDecodes_storeRegs : RowDecodes 0xF0FF#16 0xF055#16 (fun op => .storeRegs (fieldX op)) :=
  rowDecodes_f rfl fun op (hnn : fieldNN op = 0x55#8) => by simp only [decodeF, hnn]

theorem rowDecodes_loadRegs : RowDecodes 0xF0FF#16 0xF065#16 (fun op => .loadRegs (fieldX op)) :=
  rowDecodes_f rfl fun op (hnn : fieldNN op = 0x65#8) => by simp only [decodeF, hnn]

end Sys2Proof.Machine

namespace Sys2Proof

/-! ## Words put together from their fields -/

theorem packA_of_fieldOp {op : Word} {c : Nibble} (hop : fieldOp op = c) : packA c (fieldNNN op) = op :=
  hop ▸ packA_fields op

theorem packXI_of_fieldOp {op : Word} {c : Nibble} (hop : fieldOp op = c) :
    packXI c (fieldX op) (fieldNN op) = op := hop ▸ packXI_fields op

theorem packXI_of_fields {op : Word} {c : Nibble} {nn : Byte} (hop : fieldOp op = c) (hnn : fieldNN op = nn) :
    packXI c (fieldX op) nn = op := hnn ▸ packXI_of_fieldOp hop

theorem packXY_of_fieldOp {op : Word} {c : Nibble} (hop : fieldOp op = c) :
    packXY c (fieldX op) (fieldY op) (fieldN op) = op := hop ▸ packXY_fields op

theorem packXY_of_fields {op : Word} {c n : Nibble} (hop : fieldOp op = c) (hn : fieldN op = n) :
    packXY c (fieldX op) (fieldY op) n = op := hn ▸ packXY_of_fieldOp hop

/-! ## The encoder gives the word back, one lemma per dispatch of the decoder -/

theorem encode_of_decodeZero {op : Word} {i : Instr} (h : decodeZero op = .ok i) : encode i = op := by
  unfold decodeZero at h
  split_ifs at h with hcls hret
  · cases h; exact hcls.symm
  · cases h; exact hret.symm

theorem encode_of_decodeEight {op : Word} {i : Instr} (hop : fieldOp op = 0x8#4) (h : decodeEight op = .ok i) :
    encode i = op := by
  unfold decodeEight at h
  split at h <;> cases h <;> exact packXY_of_fields hop ‹_›

theorem encode_of_decodeE {op : Word} {i : Instr} (hop : fieldOp op = 0xE#4) (h : decodeE op = .ok i) :
    encode i = op := by
  unfold decodeE at h
  split at h <;> cases h <;> exact packXI_of_fields hop ‹_›

theorem encode_of_decodeF {op : Word} {i : Instr} (hop : fieldOp op = 0xF#4) (h : decodeF op = .ok i) :
    encode i = op := by
  unfold decodeF at h
  split at h <;> cases h <;> exact packXI_of_fields hop ‹_›

theorem nibble_cases : ∀ c : Nibble, c = 0x0#4 ∨ c = 0x1#4 ∨ c = 0x2#4 ∨ c = 0x3#4 ∨ c = 0x4#4 ∨ c = 0x5#4 ∨ c = 0x6#4 ∨
    c = 0x7#4 ∨ c = 0x8#4 ∨ c = 0x9#4 ∨ c = 0xA#4 ∨ c = 0xB#4 ∨ c = 0xC#4 ∨ c = 0xD#4 ∨ c = 0xE#4 ∨ c = 0xF#4 := by
  decide

/-- No bit of a word that decodes is dropped (R91, R97): one case per high nibble. -/
theorem encode_of_decode {op : Word} {i : Instr} (h : decode op = .ok i) : encode i = op := by
  obtain hop | hop | hop | hop | hop | hop | hop | hop | hop | hop | hop | hop | hop | hop | hop | hop :=
    nibble_cases (fieldOp op)
  rotate_right
  · exact encode_of_decodeF hop ((Machine.decode_of_fieldOp_f hop).symm.trans h)
  all_goals simp only [decode, hop] at h
  · exact encode_of_decodeZero h
  · cases h; exact packA_of_fieldOp hop
  · cases h; exact packA_of_fieldOp hop
  · cases h; exact packXI_of_fieldOp hop
  · cases h; exact packXI_of_fieldOp hop
  · split_ifs at h with hn
    cases h; exact packXY_of_fields hop hn
  · cases h; exact packXI_of_fieldOp hop
  · cases h; exact packXI_of_fieldOp hop
  · exact encode_of_decodeEight hop h
  · split_ifs at h with hn
    cases h; exact packXY_of_fields hop hn
  · cases h; exact packA_of_fieldOp hop
  · cases h; exact packA_of_fieldOp hop
  · cases h; exact packXI_of_fieldOp hop
  · cases h; exact packXY_of_fieldOp hop
  · exact encode_of_decodeE hop h

/-! ## The decoder undoes the encoder -/

theorem decode_encode (i : Instr) : decode (encode i) = .ok i := by
  cases i with
  | cls | ret => rfl
  | jp | call | ldI | jpV0 => simp only [encode, decode, fieldOp_packA, fieldNNN_packA]
  | seImm | sneImm | ldImm | addImm | rnd =>
    simp only [encode, decode, fieldOp_packXI, fieldX_packXI, fieldNN_packXI]
  | seReg | sneReg =>
    simp only [encode, decode, fieldOp_packXY, fieldX_packXY, fieldY_packXY, fieldN_packXY]; rfl
  | drw => simp only [encode, decode, fieldOp_packXY, fieldX_packXY, fieldY_packXY, fieldN_packXY]
  | ldReg | orReg | andReg | xorReg | addReg | subReg | shr | subn | shl =>
    simp only [encode, decode, decodeEight, fieldOp_packXY, fieldX_packXY, fieldY_packXY, fieldN_packXY]
  | skp | sknp => simp only [encode, decode, decodeE, fieldOp_packXI, fieldX_packXI, fieldNN_packXI]
  | ldVxDt | ldVxKey | ldDtVx | ldStVx | addI | ldFont | ldBcd | storeRegs | loadRegs =>
    rw [encode, Machine.decode_of_fieldOp_f (fieldOp_packXI _ _ _)]
    simp only [decodeF, fieldX_packXI, fieldNN_packXI]

/-! ## The rows accept what decodes (R95) -/

/-- Every instruction is of a row of the table, and that row accepts its encoding. -/
theorem encodingInRow (i : Instr) : Laws.EncodingInRow.Statement i := by
  cases i with
  | cls => exact Laws.EncodingInRow.cls
  | ret => exact Laws.EncodingInRow.ret
  | jp nnn => exact Laws.EncodingInRow.jp nnn
  | call nnn => exact Laws.EncodingInRow.call nnn
  | seImm x nn => exact Laws.EncodingInRow.seImm x nn
  | sneImm x nn => exact Laws.EncodingInRow.sneImm x nn
  | seReg x y => exact Laws.EncodingInRow.seReg x y
  | ldImm x nn => exact Laws.EncodingInRow.ldImm x nn
  | addImm x nn => exact Laws.EncodingInRow.addImm x nn
  | ldReg x y => exact Laws.EncodingInRow.ldReg x y
  | orReg x y => exact Laws.EncodingInRow.orReg x y
  | andReg x y => exact Laws.EncodingInRow.andReg x y
  | xorReg x y => exact Laws.EncodingInRow.xorReg x y
  | addReg x y => exact Laws.EncodingInRow.addReg x y
  | subReg x y => exact Laws.EncodingInRow.subReg x y
  | shr x y => exact Laws.EncodingInRow.shr x y
  | subn x y => exact Laws.EncodingInRow.subn x y
  | shl x y => exact Laws.EncodingInRow.shl x y
  | sneReg x y => exact Laws.EncodingInRow.sneReg x y
  | ldI nnn => exact Laws.EncodingInRow.ldI nnn
  | jpV0 nnn => exact Laws.EncodingInRow.jpV0 nnn
  | rnd x nn => exact Laws.EncodingInRow.rnd x nn
  | drw x y n => exact Laws.EncodingInRow.drw x y n
  | skp x => exact Laws.EncodingInRow.skp x
  | sknp x => exact Laws.EncodingInRow.sknp x
  | ldVxDt x => exact Laws.EncodingInRow.ldVxDt x
  | ldVxKey x => exact Laws.EncodingInRow.ldVxKey x
  | ldDtVx x => exact Laws.EncodingInRow.ldDtVx x
  | ldStVx x => exact Laws.EncodingInRow.ldStVx x
  | addI x => exact Laws.EncodingInRow.addI x
  | ldFont x => exact Laws.EncodingInRow.ldFont x
  | ldBcd x => exact Laws.EncodingInRow.ldBcd x
  | storeRegs x => exact Laws.EncodingInRow.storeRegs x
  | loadRegs x => exact Laws.EncodingInRow.loadRegs x

end Sys2Proof

namespace Sys2Proof.Machine

theorem rowDecodes_cls : RowDecodes 0xFFFF#16 0x00E0#16 (fun _ => .cls) := fun op h => by
  rw [and_maskAll] at h; rw [h]; rfl

theorem rowDecodes_ret : RowDecodes 0xFFFF#16 0x00EE#16 (fun _ => .ret) := fun op h => by
  rw [and_maskAll] at h; rw [h]; rfl

/-- The row of an instruction, whatever its operands, decodes to instructions of that row. -/
theorem exists_decode_of_row_accepts (j : Instr) {op : Word} (h : j.row.accepts op = true) :
    ∃ i, decode op = .ok i ∧ i.row = j.row := by
  replace h : op &&& j.row.mask = j.row.value := beq_iff_eq.1 h
  cases j with
  | cls => exact ⟨_, rowDecodes_cls op h, rfl⟩
  | ret => exact ⟨_, rowDecodes_ret op h, rfl⟩
  | jp => exact ⟨_, rowDecodes_jp op h, rfl⟩
  | call => exact ⟨_, rowDecodes_call op h, rfl⟩
  | seImm => exact ⟨_, rowDecodes_seImm op h, rfl⟩
  | sneImm => exact ⟨_, rowDecodes_sneImm op h, rfl⟩
  | seReg => exact ⟨_, rowDecodes_seReg op h, rfl⟩
  | ldImm => exact ⟨_, rowDecodes_ldImm op h, rfl⟩
  | addImm => exact ⟨_, rowDecodes_addImm op h, rfl⟩
  | ldReg => exact ⟨_, rowDecodes_ldReg op h, rfl⟩
  | orReg => exact ⟨_, rowDecodes_orReg op h, rfl⟩
  | andReg => exact ⟨_, rowDecodes_andReg op h, rfl⟩
  | xorReg => exact ⟨_, rowDecodes_xorReg op h, rfl⟩
  | addReg => exact ⟨_, rowDecodes_addReg op h, rfl⟩
  | subReg => exact ⟨_, rowDecodes_subReg op h, rfl⟩
  | shr => exact ⟨_, rowDecodes_shr op h, rfl⟩
  | subn => exact ⟨_, rowDecodes_subn op h, rfl⟩
  | shl => exact ⟨_, rowDecodes_shl op h, rfl⟩
  | sneReg => exact ⟨_, rowDecodes_sneReg op h, rfl⟩
  | ldI => exact ⟨_, rowDecodes_ldI op h, rfl⟩
  | jpV0 => exact ⟨_, rowDecodes_jpV0 op h, rfl⟩
  | rnd => exact ⟨_, rowDecodes_rnd op h, rfl⟩
  | drw => exact ⟨_, rowDecodes_drw op h, rfl⟩
  | skp => exact ⟨_, rowDecodes_skp op h, rfl⟩
  | sknp => exact ⟨_, rowDecodes_sknp op h, rfl⟩
  | ldVxDt => exact ⟨_, rowDecodes_ldVxDt op h, rfl⟩
  | ldVxKey => exact ⟨_, rowDecodes_ldVxKey op h, rfl⟩
  | ldDtVx => exact ⟨_, rowDecodes_ldDtVx op h, rfl⟩
  | ldStVx => exact ⟨_, rowDecodes_ldStVx op h, rfl⟩
  | addI => exact ⟨_, rowDecodes_addI op h, rfl⟩
  | ldFont => exact ⟨_, rowDecodes_ldFont op h, rfl⟩
  | ldBcd => exact ⟨_, rowDecodes_ldBcd op h, rfl⟩
  | storeRegs => exact ⟨_, rowDecodes_storeRegs op h, rfl⟩
  | loadRegs => exact ⟨_, rowDecodes_loadRegs op h, rfl⟩

/-! ## The unknown words (R101) -/

theorem fieldOp_eq_zero_iff (op : Word) : op.toNat < 0x1000 ↔ fieldOp op = 0x0#4 := by
  rw [← BitVec.toNat_inj, fieldOp_toNat, BitVec.toNat_ofNat]; omega

theorem decodeZero_eq_unknown (op : Word) :
    decodeZero op = .error (.unknownOpcode op) ↔ op ≠ 0x00E0#16 ∧ op ≠ 0x00EE#16 := by
  unfold decodeZero
  split_ifs with hcls hret <;> simp [*]

theorem decodeEight_eq_unknown (op : Word) : decodeEight op = .error (.unknownOpcode op) ↔
    fieldN op ∈ [0x8#4, 0x9#4, 0xA#4, 0xB#4, 0xC#4, 0xD#4, 0xF#4] := by
  obtain hn | hn | hn | hn | hn | hn | hn | hn | hn | hn | hn | hn | hn | hn | hn | hn := nibble_cases (fieldN op) <;>
    simp [decodeEight, hn]

/-- The arms of `decodeE` are the listed low bytes, the last arm every other byte. -/
theorem decodeE_eq_unknown (op : Word) :
    decodeE op = .error (.unknownOpcode op) ↔ fieldNN op ∉ [0x9E#8, 0xA1#8] := by
  unfold decodeE
  split <;> simp_all

/-- The arms of `decodeF` are the listed low bytes, the last arm every other byte. -/
theorem decodeF_eq_unknown (op : Word) : decodeF op = .error (.unknownOpcode op) ↔
    fieldNN op ∉ [0x07#8, 0x0A#8, 0x15#8, 0x18#8, 0x1E#8, 0x29#8, 0x33#8, 0x55#8, 0x65#8] := by
  unfold decodeF
  split <;> simp_all

/-! ## The statements -/

/-- Settles O14: the decoder undoes the encoder on every instruction. -/
theorem decodeEncodeIsIdentity : Obligations.DecodeEncodeIsIdentity := fun i _ => decode_encode i

/-- Settles O15: the encoder undoes the decoder on every word that decodes. -/
theorem encodeDecodeIsIdentity : Obligations.EncodeDecodeIsIdentity := fun _ _ => encode_of_decode

/-- Settles O12: a word that decodes is the encoding of its instruction, whose row accepts it; a row's words decode to it. -/
theorem decodeFollowsTheOpcodeMap : Obligations.DecodeFollowsTheOpcodeMap := by
  refine ⟨fun op i h => ?_, fun op r hr h => ?_, by decide, rfl⟩
  · obtain ⟨-, hrow, haccepts⟩ := encodingInRow i
    exact ⟨hrow, encode_of_decode h ▸ haccepts⟩
  · obtain ⟨j, -, rfl⟩ := List.mem_map.1 hr
    exact exists_decode_of_row_accepts j h

/-- Settles O13, one case per high nibble: each clause of R101 is what one dispatch of the decoder rejects. -/
theorem unknownWordsAreTheListed : Obligations.UnknownWordsAreTheListed := by
  intro op
  unfold UnknownWord
  rw [fieldOp_eq_zero_iff]
  obtain hop | hop | hop | hop | hop | hop | hop | hop | hop | hop | hop | hop | hop | hop | hop | hop :=
    nibble_cases (fieldOp op)
  rotate_right
  · rw [decode_of_fieldOp_f hop, decodeF_eq_unknown]; simp [hop]
  all_goals simp [decode, hop, decodeZero_eq_unknown, decodeEight_eq_unknown, decodeE_eq_unknown]

/-- Settles O16, by evaluating the decoder. -/
theorem printedWordsDecode : Obligations.PrintedWordsDecode := by
  unfold Obligations.PrintedWordsDecode
  decide

end Sys2Proof.Machine
end

section
/-! SUPPORT. What an instruction can do, said once for all 34 (spec/10_state.md R22, R27, R44, spec/60_exceptions.md R228): the fields
it may write, the fatal conditions it may raise, and the registers it may write; the statements on these settled. -/

namespace Sys2Proof.Machine

/-! ## Everything a return, a call and a key wait can do (R121, R123, R205) -/

theorem exec_ret_cases {s t : State} (h : exec .ret s = .next t) :
    (s.sp = 0 ∧ t = s.raise (.stackUnderflow s.instrAddr)) ∨
    ∃ (n : Fin 16) (sp : Fin 17), t = { s with sp := sp }.setPc s.stack[n] := by
  cases hsp : s.sp.val with
  | zero => rw [exec_ret_of_empty hsp] at h; cases h; exact .inl ⟨Fin.ext hsp, rfl⟩
  | succ n =>
    have hn : n < 16 := by omega
    obtain ⟨sp, -, he⟩ := exec_ret_of_succ hn hsp
    rw [he] at h; cases h; exact .inr ⟨⟨n, hn⟩, sp, rfl⟩

theorem exec_call_cases {nnn : Addr} {s t : State} (h : exec (.call nnn) s = .next t) :
    (s.sp = 16 ∧ t = s.raise (.stackOverflow s.instrAddr)) ∨
    ∃ (hsp : s.sp.val < 16) (sp : Fin 17),
      t = { s with stack := s.stack.set s.sp.val s.pc hsp, sp := sp }.setPc (zextAddr nnn) := by
  by_cases hsp : s.sp.val < 16
  · obtain ⟨sp, -, he⟩ := exec_call_of_lt nnn hsp
    rw [he] at h; cases h; exact .inr ⟨hsp, sp, rfl⟩
  · have hfull : s.sp.val = 16 := by omega
    rw [exec_call_of_full nnn hfull] at h; cases h; exact .inl ⟨Fin.ext hfull, rfl⟩

theorem exec_ldVxKey_cases {x : Nibble} {s t : State} (h : exec (.ldVxKey x) s = .next t) :
    t = s.setPc (s.pc - 2#16) ∨ ∃ b, t = s.countDraw.setV x b := by
  simp only [exec, execLdVxKey] at h
  split at h
  · cases h; exact .inl rfl
  · cases h; exact .inr ⟨_, rfl⟩

/-! ## The fields an instruction may write (R44) -/

/-- `s` with the fields taken from `t` that the instruction may write: the frame of the instruction. A fatal condition
writes RUN and the trace. -/
def State.overwrittenBy (i : Instr) (s t : State) : State :=
  match i with
  | .cls => { s with disp := t.disp }
  | .ret => { s with sp := t.sp, pc := t.pc, run := t.run, trace := t.trace }
  | .call _ => { s with sp := t.sp, stack := t.stack, pc := t.pc, run := t.run, trace := t.trace }
  | .jp _ | .jpV0 _ | .seImm _ _ | .sneImm _ _ | .seReg _ _ | .sneReg _ _ | .skp _ | .sknp _ => { s with pc := t.pc }
  | .ldImm _ _ | .addImm _ _ | .ldReg _ _ | .orReg _ _ | .andReg _ _ | .xorReg _ _ | .addReg _ _ | .subReg _ _
  | .shr _ _ | .subn _ _ | .shl _ _ | .ldVxDt _ => { s with v := t.v }
  | .rnd _ _ => { s with v := t.v, draws := t.draws }
  | .ldVxKey _ => { s with v := t.v, draws := t.draws, pc := t.pc }
  | .drw _ _ _ => { s with v := t.v, disp := t.disp, run := t.run, trace := t.trace }
  | .ldI _ | .ldFont _ => { s with i := t.i }
  | .addI _ => { s with i := t.i, v := t.v }
  | .ldDtVx _ => { s with dt := t.dt }
  | .ldStVx _ => { s with st := t.st }
  | .ldBcd _ | .storeRegs _ => { s with mem := t.mem, run := t.run, trace := t.trace }
  | .loadRegs _ => { s with v := t.v, run := t.run, trace := t.trace }

/-- A checked range stays in a frame that holds its effect and a fatal condition. -/
theorem State.checkRange_frame {s effect : State} (frame : State → State) (count : Nat) (heffect : effect = frame effect)
    (hraise : ∀ f, s.raise f = frame (s.raise f)) :
    s.checkRange count effect = frame (s.checkRange count effect) := by
  obtain ⟨-, h⟩ | ⟨-, h⟩ := s.checkRange_cases count effect
  · rw [h]; exact heffect
  · rw [h]; exact hraise _

/-- An instruction changes only the fields it may write. -/
theorem eq_overwrittenBy_of_exec {i : Instr} {s t : State} (h : exec i s = .next t) : t = s.overwrittenBy i t := by
  cases i with
  | ret => obtain ⟨-, rfl⟩ | ⟨n, sp, rfl⟩ := exec_ret_cases h <;> rfl
  | call nnn => obtain ⟨-, rfl⟩ | ⟨hsp, sp, rfl⟩ := exec_call_cases h <;> rfl
  | ldVxKey x => obtain rfl | ⟨b, rfl⟩ := exec_ldVxKey_cases h <;> rfl
  | seImm | sneImm | seReg | sneReg | skp | sknp => cases h; exact s.skipIf_eq _
  | drw x y n => cases h; exact State.checkRange_frame (s.overwrittenBy (.drw x y n)) _ rfl fun _ => rfl
  | ldBcd x =>
    cases h; exact State.checkRange_frame (s.overwrittenBy (.ldBcd x)) _ (by rw [State.writeBytes_eq]; rfl) fun _ => rfl
  | storeRegs x =>
    cases h; exact State.checkRange_frame (s.overwrittenBy (.storeRegs x)) _ (by rw [State.writeBytes_eq]; rfl) fun _ => rfl
  | loadRegs x =>
    cases h; exact State.checkRange_frame (s.overwrittenBy (.loadRegs x)) _ (by rw [State.setVs_eq]; rfl) fun _ => rfl
  | cls | jp | jpV0 | ldImm | addImm | ldReg | orReg | andReg | xorReg | addReg | subReg | shr | subn | shl | ldI | rnd
  | ldVxDt | ldDtVx | ldStVx | addI | ldFont => cases h; rfl

/-- A field that the frame of the instruction takes from the old state is unchanged. -/
theorem field_eq_of_exec {α : Type} {i : Instr} {s t : State} (field : State → α) (h : exec i s = .next t)
    (hframe : field (s.overwrittenBy i t) = field s) : field t = field s :=
  (congrArg field (eq_overwrittenBy_of_exec h)).trans hframe

theorem disp_of_exec {i : Instr} {s t : State} (h : exec i s = .next t) (hne : t.disp ≠ s.disp) :
    i = .cls ∨ ∃ x y n, i = .drw x y n := by
  cases i with
  | cls => exact .inl rfl
  | drw x y n => exact .inr ⟨x, y, n, rfl⟩
  | _ => exact absurd (field_eq_of_exec State.disp h rfl) hne

theorem mem_of_exec {i : Instr} {s t : State} (h : exec i s = .next t) (hne : t.mem ≠ s.mem) :
    ∃ x, i = .ldBcd x ∨ i = .storeRegs x := by
  cases i with
  | ldBcd x => exact ⟨x, .inl rfl⟩
  | storeRegs x => exact ⟨x, .inr rfl⟩
  | _ => exact absurd (field_eq_of_exec State.mem h rfl) hne

theorem sp_of_exec {i : Instr} {s t : State} (h : exec i s = .next t) (hne : t.sp ≠ s.sp) :
    i = .ret ∨ ∃ nnn, i = .call nnn := by
  cases i with
  | ret => exact .inl rfl
  | call nnn => exact .inr ⟨nnn, rfl⟩
  | _ => exact absurd (field_eq_of_exec State.sp h rfl) hne

theorem stack_of_exec {i : Instr} {s t : State} (h : exec i s = .next t) (hne : t.stack ≠ s.stack) :
    ∃ nnn, i = .call nnn := by
  cases i with
  | call nnn => exact ⟨nnn, rfl⟩
  | _ => exact absurd (field_eq_of_exec State.stack h rfl) hne

theorem index_of_exec {i : Instr} {s t : State} (h : exec i s = .next t) (hne : t.i ≠ s.i) :
    (∃ nnn, i = .ldI nnn) ∨ ∃ x, i = .addI x ∨ i = .ldFont x := by
  cases i with
  | ldI nnn => exact .inl ⟨nnn, rfl⟩
  | addI x => exact .inr ⟨x, .inl rfl⟩
  | ldFont x => exact .inr ⟨x, .inr rfl⟩
  | _ => exact absurd (field_eq_of_exec State.i h rfl) hne

theorem dt_of_exec {i : Instr} {s t : State} (h : exec i s = .next t) (hne : t.dt ≠ s.dt) : ∃ x, i = .ldDtVx x := by
  cases i with
  | ldDtVx x => exact ⟨x, rfl⟩
  | _ => exact absurd (field_eq_of_exec State.dt h rfl) hne

theorem st_of_exec {i : Instr} {s t : State} (h : exec i s = .next t) (hne : t.st ≠ s.st) : ∃ x, i = .ldStVx x := by
  cases i with
  | ldStVx x => exact ⟨x, rfl⟩
  | _ => exact absurd (field_eq_of_exec State.st h rfl) hne

theorem tone_of_exec {i : Instr} {s t : State} (h : exec i s = .next t) : t.tone = s.tone :=
  congrArg (fun o => o.2.1) (outsideExecutor_of_exec h)

theorem timerOn_of_exec {i : Instr} {s t : State} (h : exec i s = .next t) : t.timerOn = s.timerOn :=
  congrArg (fun o => o.2.2.1) (outsideExecutor_of_exec h)

/-- PC is a control transfer's to write (R27). -/
theorem pc_of_exec {i : Instr} {s t : State} (h : exec i s = .next t) (hi : i.controlTransfer = false) : t.pc = s.pc := by
  cases i with
  | ret | jp | call | jpV0 | seImm | sneImm | seReg | sneReg | skp | sknp | ldVxKey => cases hi
  | _ => exact field_eq_of_exec State.pc h rfl

/-! ## Fatal conditions of instructions (R223 to R225, R232) -/

/-- The fatal condition the instruction raises in this state, with the value it records. -/
def FaultsWith (i : Instr) (s : State) (f : Fatal) : Prop :=
  (i = .ret ∧ s.sp = 0 ∧ f = .stackUnderflow (s.pc - 2#16)) ∨
  (∃ nnn, i = .call nnn ∧ s.sp = 16 ∧ f = .stackOverflow (s.pc - 2#16)) ∨
  (∃ x y n, i = .drw x y n ∧ 0 < n.toNat ∧ 4095 < s.i.toNat + n.toNat - 1 ∧ f = .memoryOutOfBounds s.i n.toNat) ∨
  (∃ x, i = .ldBcd x ∧ 4095 < s.i.toNat + 2 ∧ f = .memoryOutOfBounds s.i 3) ∨
  (∃ x, (i = .storeRegs x ∨ i = .loadRegs x) ∧ 4095 < s.i.toNat + x.toNat ∧ f = .memoryOutOfBounds s.i (x.toNat + 1))

/-- A checked range whose effect keeps RUN and the trace either keeps them or raises MemoryOutOfBounds. -/
theorem State.checkRange_run_cases {s effect : State} (count : Nat) (hrun : effect.run = s.run)
    (htrace : effect.trace = s.trace) :
    ((s.checkRange count effect).run = s.run ∧ (s.checkRange count effect).trace = s.trace) ∨
    (0 < count ∧ 4096 < s.i.toNat + count ∧ s.checkRange count effect = s.raise (.memoryOutOfBounds s.i count)) := by
  obtain ⟨-, h⟩ | ⟨hout, h⟩ := s.checkRange_cases count effect
  · rw [h]; exact .inl ⟨hrun, htrace⟩
  · obtain ⟨hpos, hlt⟩ := inRange_eq_false.1 hout
    exact .inr ⟨hpos, hlt, h⟩

theorem State.writeBytes_run (s : State) (a : Nat) (bs : List Byte) : (s.writeBytes a bs).run = s.run := by
  rw [State.writeBytes_eq]
theorem State.writeBytes_trace (s : State) (a : Nat) (bs : List Byte) : (s.writeBytes a bs).trace = s.trace := by
  rw [State.writeBytes_eq]
theorem State.drawSprite_run (s : State) (x0 y0 : Byte) (sprite : List Byte) :
    (s.drawSprite x0 y0 sprite).run = s.run := rfl
theorem State.drawSprite_trace (s : State) (x0 y0 : Byte) (sprite : List Byte) :
    (s.drawSprite x0 y0 sprite).trace = s.trace := rfl
theorem State.setVs_run (s : State) (k : Nat) (bs : List Byte) : (s.setVs k bs).run = s.run := by rw [State.setVs_eq]
theorem State.setVs_trace (s : State) (k : Nat) (bs : List Byte) : (s.setVs k bs).trace = s.trace := by
  rw [State.setVs_eq]

/-- An instruction keeps RUN and the trace, or it raises a fatal condition and changes nothing else. -/
theorem exec_run_cases {i : Instr} {s t : State} (h : exec i s = .next t) :
    (t.run = s.run ∧ t.trace = s.trace) ∨ ∃ f, t = s.raise f ∧ FaultsWith i s f := by
  cases i with
  | ret =>
    obtain ⟨hsp, rfl⟩ | ⟨n, sp, rfl⟩ := exec_ret_cases h
    · exact .inr ⟨_, rfl, .inl ⟨rfl, hsp, rfl⟩⟩
    · exact .inl ⟨rfl, rfl⟩
  | call nnn =>
    obtain ⟨hsp, rfl⟩ | ⟨hsp, sp, rfl⟩ := exec_call_cases h
    · exact .inr ⟨_, rfl, .inr (.inl ⟨nnn, rfl, hsp, rfl⟩)⟩
    · exact .inl ⟨rfl, rfl⟩
  | drw x y n =>
    cases h
    obtain hkeep | ⟨hpos, hlt, he⟩ := s.checkRange_run_cases n.toNat (s.drawSprite_run _ _ _) (s.drawSprite_trace _ _ _)
    · exact .inl hkeep
    · exact .inr ⟨_, he, .inr (.inr (.inl ⟨x, y, n, rfl, hpos, by omega, rfl⟩))⟩
  | ldBcd x =>
    cases h
    obtain hkeep | ⟨-, hlt, he⟩ := s.checkRange_run_cases 3 (s.writeBytes_run _ _) (s.writeBytes_trace _ _)
    · exact .inl hkeep
    · exact .inr ⟨_, he, .inr (.inr (.inr (.inl ⟨x, rfl, by omega, rfl⟩)))⟩
  | storeRegs x =>
    cases h
    obtain hkeep | ⟨-, hlt, he⟩ := s.checkRange_run_cases (x.toNat + 1) (s.writeBytes_run _ _) (s.writeBytes_trace _ _)
    · exact .inl hkeep
    · exact .inr ⟨_, he, .inr (.inr (.inr (.inr ⟨x, .inl rfl, by omega, rfl⟩)))⟩
  | loadRegs x =>
    cases h
    obtain hkeep | ⟨-, hlt, he⟩ := s.checkRange_run_cases (x.toNat + 1) (s.setVs_run _ _) (s.setVs_trace _ _)
    · exact .inl hkeep
    · exact .inr ⟨_, he, .inr (.inr (.inr (.inr ⟨x, .inr rfl, by omega, rfl⟩)))⟩
  | _ => exact .inl ⟨field_eq_of_exec State.run h rfl, field_eq_of_exec State.trace h rfl⟩

/-! ## The registers an instruction may write (R22) -/

theorem State.getV_checkRange {s effect : State} {k : Nibble} (count : Nat) (he : effect.getV k = s.getV k) :
    (s.checkRange count effect).getV k = s.getV k := by
  obtain ⟨-, h⟩ | ⟨-, h⟩ := s.checkRange_cases count effect
  · rw [h, he]
  · rw [h]; rfl

/-- A register an instruction does not list is kept: one write, a result with its flag, or a run of writes passes it by. -/
theorem getV_of_exec {i : Instr} {s t : State} {k : Nibble} (h : exec i s = .next t) (hk : i.mayWrite k = false) :
    t.getV k = s.getV k := by
  cases i with
  | ldImm x | addImm x | ldReg x | orReg x | andReg x | xorReg x | rnd x | ldVxDt x =>
    cases h; exact State.getV_setV_of_ne _ _ (beq_eq_false_iff_ne.1 hk)
  | ldVxKey x =>
    obtain rfl | ⟨b, rfl⟩ := exec_ldVxKey_cases h
    · rfl
    · exact State.getV_setV_of_ne _ _ (beq_eq_false_iff_ne.1 hk)
  | addReg x | subReg x | shr x | subn x | shl x =>
    obtain ⟨hx, hf⟩ := Bool.or_eq_false_iff.1 hk
    cases h; exact (s.setResultFlag_frame x _ _).1 k (beq_eq_false_iff_ne.1 hx) (beq_eq_false_iff_ne.1 hf)
  | addI => cases h; exact State.getV_setV_of_ne _ _ (beq_eq_false_iff_ne.1 hk)
  | drw =>
    cases h
    refine State.getV_checkRange _ ?_
    rw [State.getV_drawSprite, if_neg (beq_eq_false_iff_ne.1 hk)]
  | loadRegs x =>
    cases h
    refine State.getV_checkRange _ ?_
    have hlt := of_decide_eq_false hk
    rw [State.getV_setVs, if_neg (by rw [State.length_readBytes]; omega)]
  | _ => exact field_eq_of_exec (State.getV · k) h rfl

/-! ## The statements -/

/-- Settles O22: an instruction that leaves Running has raised one of its fatal conditions. -/
theorem instructionFaultsArePrecise : Obligations.InstructionFaultsArePrecise := by
  intro i s t h hs ht
  obtain ⟨hrun, -⟩ | ⟨f, rfl, hf⟩ := exec_run_cases h
  · exact absurd (hrun.trans hs) ht
  · exact ⟨f, s.raise_eq f, hf⟩

/-- Settles O44: no write of any instruction falls on a register it does not list. -/
theorem onlyListedRegistersAreWritten : Obligations.OnlyListedRegistersAreWritten := fun _ _ _ _ => getV_of_exec

/-- Settles O59: each clause is one field of the instruction's frame. -/
theorem agentsKeepToTheirState : Obligations.AgentsKeepToTheirState :=
  ⟨fun _ _ _ h => ⟨State.keys_eq_of_outsideExecutor (outsideExecutor_of_exec h), tone_of_exec h, timerOn_of_exec h,
      disp_of_exec h, mem_of_exec h, sp_of_exec h, stack_of_exec h, index_of_exec h, dt_of_exec h, st_of_exec h⟩,
    fun s => by rw [State.tick_eq]⟩

end Sys2Proof.Machine
end

section
/-! SUPPORT. The tick's case table (spec/60_exceptions.md R242, R243): the events of one tick, the tone over a run of ticks, and
the statements on the tone settled from these. -/

namespace Sys2Proof.Machine

/-! ## One tick (R242) -/

/-- The events of one tick by TONE and the sampled ST: the case table of R242. -/
def tickEvents : Bool → Nat → List Event
  | false, 0 => []
  | false, 1 => [.audioStart, .audioStop]
  | false, _ => [.audioStart]
  | true, 0 => [.audioStop]
  | true, 1 => [.audioStop]
  | true, _ => []

theorem tickEvents_false_of_two_le {n : Nat} (h : 2 ≤ n) : tickEvents false n = [.audioStart] := by
  obtain ⟨m, rfl⟩ := Nat.exists_eq_add_of_le' h; rfl

theorem tickEvents_true_of_two_le {n : Nat} (h : 2 ≤ n) : tickEvents true n = [] := by
  obtain ⟨m, rfl⟩ := Nat.exists_eq_add_of_le' h; rfl

@[simp] theorem State.tickDelay_tone (s : State) : s.tickDelay.tone = s.tone := by
  unfold State.tickDelay; split <;> rfl
@[simp] theorem State.tickDelay_trace (s : State) : s.tickDelay.trace = s.trace := by
  unfold State.tickDelay; split <;> rfl
@[simp] theorem State.tickSound_tone (s : State) (s0 : Byte) : (s.tickSound s0).tone = s.tone := by
  unfold State.tickSound; split <;> rfl
@[simp] theorem State.tickSound_trace (s : State) (s0 : Byte) : (s.tickSound s0).trace = s.trace := by
  unfold State.tickSound; split <;> rfl

/-- The start part turns the tone on when ST was sampled above 0. -/
theorem State.tickStart_tone (s : State) (s0 : Byte) : (s.tickStart s0).tone = (s.tone || decide (0 < s0.toNat)) := by
  unfold State.tickStart
  split_ifs with h
  · simp [h.1]
  · by_cases h0 : 0 < s0.toNat <;> simp_all

theorem State.tickStart_trace (s : State) (s0 : Byte) :
    (s.tickStart s0).trace = s.trace ++ if 0 < s0.toNat ∧ s.tone = false then [.audioStart] else [] := by
  unfold State.tickStart
  split_ifs <;> simp

/-- The stop part turns the tone off when ST is 0. -/
theorem State.tickStop_tone (s : State) : s.tickStop.tone = (s.tone && decide (s.st ≠ 0#8)) := by
  unfold State.tickStop
  split_ifs with h
  · simp [h.1]
  · by_cases h0 : s.st = 0#8 <;> simp_all

theorem State.tickStop_trace (s : State) :
    s.tickStop.trace = s.trace ++ if s.st = 0#8 ∧ s.tone = true then [.audioStop] else [] := by
  unfold State.tickStop
  split_ifs <;> simp

/-- ST after the sound part of a tick is 0 exactly when it was sampled at 0 or 1. -/
theorem countDown_eq_zero_iff (b : Byte) : (if 0 < b.toNat then b - 1#8 else b) = 0#8 ↔ b.toNat ≤ 1 := by
  rw [← BitVec.toNat_inj, countDown_toNat, BitVec.toNat_ofNat]; omega

/-- After a tick the tone is on exactly when the sampled ST was at least 2. -/
theorem State.tick_tone (s : State) : s.tick.tone = decide (2 ≤ s.st.toNat) := by
  simp only [State.tick, tickStop_tone, tickSound_tone, tickStart_tone, tickDelay_tone, tickSound_st, tickStart_st,
    tickDelay_st, ne_eq, countDown_eq_zero_iff]
  by_cases h : 2 ≤ s.st.toNat
  · simp [h, show 0 < s.st.toNat by omega, show ¬ s.st.toNat ≤ 1 by omega]
  · simp [h, show s.st.toNat ≤ 1 by omega]

theorem State.tick_trace (s : State) : s.tick.trace = s.trace ++ tickEvents s.tone s.st.toNat := by
  simp only [State.tick, tickStop_trace, tickSound_trace, tickStart_trace, tickDelay_trace, tickSound_tone, tickStart_tone,
    tickDelay_tone, tickSound_st, tickStart_st, tickDelay_st, countDown_eq_zero_iff, List.append_assoc]
  obtain h | h | h : s.st.toNat = 0 ∨ s.st.toNat = 1 ∨ 2 ≤ s.st.toNat := by omega
  · cases s.tone <;> simp [h, tickEvents]
  · cases s.tone <;> simp [h, tickEvents]
  · have hpos : 0 < s.st.toNat := by omega
    have hone : ¬ s.st.toNat ≤ 1 := by omega
    cases s.tone <;> simp [hpos, hone, tickEvents_false_of_two_le h, tickEvents_true_of_two_le h]

/-! ## The tone over a run of ticks (R243(c)) -/

/-- The first of a run of ticks: what it leaves of the timers and the tone, and that the rest of the run follows it. -/
theorem steps_succ_ticks {k : Nat} {s : State} (hon : s.timerOn = true) (hagenda : s.agenda = List.replicate (k + 1) .tick) :
    ∃ t, steps (k + 1) s = steps k t ∧ t.timerOn = true ∧ t.agenda = List.replicate k .tick ∧
      t.st.toNat = s.st.toNat - 1 ∧ t.tone = decide (2 ≤ s.st.toNat) ∧
      t.trace = s.trace ++ tickEvents s.tone s.st.toNat :=
  ⟨_, steps_succ_of_next k (step_tick hon hagenda), (State.tick_timerOn _).trans hon, State.tick_agenda _,
    State.tick_st_toNat _, State.tick_tone _, State.tick_trace _⟩

/-- With the tone off and ST = 0, ticks emit nothing. -/
theorem steps_ticks_silent (k : Nat) (s : State) (hon : s.timerOn = true) (hagenda : s.agenda = List.replicate k .tick)
    (htone : s.tone = false) (hst : s.st.toNat = 0) : ∃ t, steps k s = .next t ∧ t.trace = s.trace := by
  induction k generalizing s with
  | zero => exact ⟨s, rfl, rfl⟩
  | succ k ih =>
    obtain ⟨u, hsteps, hon', hagenda', hst', htone', htrace⟩ := steps_succ_ticks hon hagenda
    obtain ⟨t, ht, htt⟩ := ih u hon' hagenda' (by simp [htone', hst]) (by omega)
    exact ⟨t, hsteps.trans ht, by simp [htt, htrace, htone, hst, tickEvents]⟩

/-- With the tone on and ST = n > 0, ticks emit nothing before the n-th, which emits the AudioStop. -/
theorem steps_ticks_sounding (k : Nat) (s : State) (hon : s.timerOn = true) (hagenda : s.agenda = List.replicate k .tick)
    (htone : s.tone = true) (hst : 0 < s.st.toNat) :
    ∃ t, steps k s = .next t ∧ t.trace = s.trace ++ if k < s.st.toNat then [] else [.audioStop] := by
  induction k generalizing s with
  | zero => exact ⟨s, rfl, by simp [hst]⟩
  | succ k ih =>
    obtain ⟨u, hsteps, hon', hagenda', hst', htone', htrace⟩ := steps_succ_ticks hon hagenda
    by_cases hlast : s.st.toNat = 1
    · obtain ⟨t, ht, htt⟩ := steps_ticks_silent k u hon' hagenda' (by simp [htone', hlast]) (by omega)
      exact ⟨t, hsteps.trans ht, by simp [htt, htrace, htone, hlast, tickEvents]⟩
    · have htwo : 2 ≤ s.st.toNat := by omega
      obtain ⟨t, ht, htt⟩ := ih u hon' hagenda' (by simp [htone', htwo]) (by omega)
      refine ⟨t, hsteps.trans ht, ?_⟩
      rw [htt, htrace, htone, tickEvents_true_of_two_le htwo, hst', List.append_nil]
      simp only [Nat.lt_sub_iff_add_lt]

/-! ## The statements -/

/-- Settles O7: the case table is the tick's, field by field. -/
theorem tickFollowsTheCaseTable : Obligations.TickFollowsTheCaseTable := by
  intro s rest hagenda
  refine ⟨fun hon => ⟨_, step_tick hon hagenda, State.tick_dt_toNat _, State.tick_st_toNat _, State.tick_tone _, ?_, ?_⟩,
    fun hoff => ?_⟩
  · rw [State.tick_trace]; rfl
  · rw [State.tick_eq]
  · rw [step_of_agenda hagenda]; exact if_neg (by simp [hoff])

/-- Settles O9: the first tick starts the tone, and the ticks after it are a run with the tone on or, for n = 1, in silence. -/
theorem toneSoundsUntilTheNthTick : Obligations.ToneSoundsUntilTheNthTick := by
  intro k s hon hagenda hk htone hst
  obtain ⟨k, rfl⟩ := Nat.exists_eq_add_of_le' hk
  obtain ⟨u, hsteps, hon', hagenda', hst', htone', htrace⟩ := steps_succ_ticks hon hagenda
  by_cases hone : s.st.toNat = 1
  · obtain ⟨t, ht, htt⟩ := steps_ticks_silent k u hon' hagenda' (by simp [htone', hone]) (by omega)
    exact ⟨t, hsteps.trans ht, by simp [htt, htrace, htone, hone, tickEvents]⟩
  · have htwo : 2 ≤ s.st.toNat := by omega
    obtain ⟨t, ht, htt⟩ := steps_ticks_sounding k u hon' hagenda' (by simp [htone', htwo]) (by omega)
    refine ⟨t, hsteps.trans ht, ?_⟩
    rw [htt, htrace, htone, tickEvents_false_of_two_le htwo, hst', List.append_assoc]
    simp only [Nat.lt_sub_iff_add_lt]
    split_ifs <;> rfl

end Sys2Proof.Machine
end

section
/-! SUPPORT. What every action keeps (spec/10_state.md R25, R28, R38, spec/60_exceptions.md R228, R229, R243): the tone events
alternate, one fatal condition at most, PC in its range, memory canonical; each by `step_keeps` from what one effect does. -/

namespace Sys2Proof.Machine

/-! ## The tone alternates (R38, R243(b)) -/

theorem toneAfter_append (on : Bool) (xs ys : List Event) :
    toneAfter on (xs ++ ys) = (toneAfter on xs).bind (toneAfter · ys) := by
  induction xs generalizing on with
  | nil => rfl
  | cons e xs ih => cases e <;> cases on <;> simp [toneAfter, ih]

theorem toneAfter_tickEvents (on : Bool) (n : Nat) : toneAfter on (tickEvents on n) = some (decide (2 ≤ n)) := by
  match on, n with
  | false, 0 | false, 1 | true, 0 | true, 1 => rfl
  | false, n + 2 | true, n + 2 => simp [tickEvents, toneAfter]

/-- Events after which the tone is what TONE says keep the invariant. -/
theorem State.ToneAlternates.of_append {s t : State} (hs : s.ToneAlternates) {es : List Event}
    (htrace : t.trace = s.trace ++ es) (htone : toneAfter s.tone es = some t.tone) : t.ToneAlternates := by
  unfold State.ToneAlternates at *
  rw [htrace, toneAfter_append, hs]; exact htone

theorem State.ToneAlternates.of_eq {s t : State} (hs : s.ToneAlternates) (htrace : t.trace = s.trace)
    (htone : t.tone = s.tone) : t.ToneAlternates :=
  hs.of_append (es := []) (by simp [htrace]) (congrArg some htone.symm)

/-- An instruction emits no tone event: it keeps the trace or adds a fatal condition. -/
theorem State.ToneAlternates.of_exec {i : Instr} {s t : State} (hs : s.ToneAlternates) (h : exec i s = .next t) :
    t.ToneAlternates := by
  obtain ⟨-, htrace⟩ | ⟨f, rfl, -⟩ := exec_run_cases h
  · exact hs.of_eq htrace (tone_of_exec h)
  · exact hs.of_append (es := [.fault f]) rfl rfl

/-! ## One fatal condition at most (R228, R229) -/

theorem fatalsOf_append (xs ys : List Event) : fatalsOf (xs ++ ys) = fatalsOf xs ++ fatalsOf ys := List.filterMap_append

theorem fatalsOf_tickEvents (on : Bool) (n : Nat) : fatalsOf (tickEvents on n) = [] := by
  match on, n with
  | false, 0 | false, 1 | true, 0 | true, 1 => rfl
  | false, n + 2 | true, n + 2 => rfl

theorem State.oneFatal_of_running {s : State} (hr : s.run = .running) : s.OneFatal ↔ fatalsOf s.trace = [] := by
  unfold State.OneFatal; rw [hr]

/-- RUN kept and no fatal condition added keep the invariant. -/
theorem State.OneFatal.of_eq {s t : State} (hs : s.OneFatal) (hrun : t.run = s.run)
    (hfatals : fatalsOf t.trace = fatalsOf s.trace) : t.OneFatal := by
  unfold State.OneFatal at *; rw [hrun, hfatals]; exact hs

/-- A running machine has none before the one it raises. -/
theorem State.OneFatal.raise {s : State} (hs : s.OneFatal) (hr : s.run = .running) (f : Fatal) : (s.raise f).OneFatal := by
  change fatalsOf (s.trace ++ [.fault f]) = [f.name]
  rw [fatalsOf_append, (State.oneFatal_of_running hr).1 hs]; rfl

theorem State.OneFatal.of_exec {i : Instr} {s t : State} (hs : s.OneFatal) (hr : s.run = .running)
    (h : exec i s = .next t) : t.OneFatal := by
  obtain ⟨hrun, htrace⟩ | ⟨f, rfl, -⟩ := exec_run_cases h
  · exact hs.of_eq hrun (congrArg fatalsOf htrace)
  · exact hs.raise hr f

theorem State.OneFatal.warnUnknown {s : State} (hs : s.OneFatal) (op : Word) : (s.warnUnknown op).OneFatal :=
  hs.of_eq rfl ((fatalsOf_append _ _).trans (List.append_nil _))

theorem State.OneFatal.tick {s : State} (hs : s.OneFatal) : s.tick.OneFatal := by
  refine hs.of_eq (by rw [State.tick_eq]) ?_
  rw [State.tick_trace, fatalsOf_append, fatalsOf_tickEvents, List.append_nil]

/-- A machine that is not halted has none, whether it was Running or Stopped. -/
theorem State.OneFatal.shutdown {s : State} (hs : s.OneFatal) : s.shutdown.OneFatal := by
  obtain ⟨f, -, h⟩ | ⟨hnot, h⟩ := s.shutdown_cases
  · rw [h]; exact hs
  · rw [h]
    cases hr : s.run with
    | halted f => exact absurd hr (hnot f)
    | running | stopped => unfold State.OneFatal at hs; rw [hr] at hs; exact hs

/-! ## PC in range (R25, R28, R121) -/

theorem State.PcInRange.of_eq {s t : State} (hs : s.PcInRange) (hpc : t.pc = s.pc) (hstack : t.stack = s.stack) :
    t.PcInRange := by
  unfold State.PcInRange at *; rw [hpc, hstack]; exact hs

/-- A small jump, the stack kept. -/
theorem State.PcInRange.setPc {s : State} (hs : s.PcInRange) {w : Word} (hw : w.toNat ≤ 0x10FE) : (s.setPc w).PcInRange :=
  ⟨hw, hs.2⟩

theorem State.PcInRange.skipIf {s : State} (hs : s.PcInRange) (hpc : s.pc.toNat ≤ 0x1000) (c : Bool) :
    (s.skipIf c).PcInRange := by
  unfold State.skipIf
  split
  · refine hs.setPc ?_
    rw [BitVec.toNat_add, BitVec.toNat_ofNat]; omega
  · exact hs

/-- An instruction fetched at 0..4094 leaves PC and the return addresses in range; the 2 in `hlow` is what a key wait goes
back by. -/
theorem State.PcInRange.of_exec {i : Instr} {s t : State} (hs : s.PcInRange) (hlow : 2 ≤ s.pc.toNat)
    (hpc : s.pc.toNat ≤ 0x1000) (h : exec i s = .next t) : t.PcInRange := by
  cases i with
  | ret =>
    obtain ⟨-, rfl⟩ | ⟨n, sp, rfl⟩ := exec_ret_cases h
    · exact hs
    · exact hs.setPc ((hs.2 n).trans (by decide))
  | call nnn =>
    obtain ⟨-, rfl⟩ | ⟨hsp, sp, rfl⟩ := exec_call_cases h
    · exact hs
    · refine ⟨?_, fun n => ?_⟩
      · rw [State.setPc_pc, zextAddr_toNat]; omega
      · rw [State.setPc_stack, Fin.getElem_fin, Vector.getElem_set]
        split
        · exact hpc
        · exact hs.2 n
  | jp nnn => cases h; exact hs.setPc (by rw [zextAddr_toNat]; omega)
  | jpV0 nnn => cases h; exact hs.setPc (by rw [zextAddr_add_zextByte_toNat]; omega)
  | seImm | sneImm | seReg | sneReg | skp | sknp => cases h; exact hs.skipIf hpc _
  | ldVxKey x =>
    obtain rfl | ⟨b, rfl⟩ := exec_ldVxKey_cases h
    · refine hs.setPc ?_
      rw [BitVec.toNat_sub, BitVec.toNat_ofNat]; omega
    · exact hs
  | _ => exact hs.of_eq (pc_of_exec h rfl) (field_eq_of_exec State.stack h rfl)

/-- The fetch at 0..4094 advances PC to 2..4096, with no wrap. -/
theorem pc_add_two_toNat {pc : Word} (h : pc.toNat ≤ 4094) : (pc + 2#16).toNat = pc.toNat + 2 := by
  rw [BitVec.toNat_add, BitVec.toNat_ofNat]; omega

theorem State.PcInRange.fetched {s : State} (hs : s.PcInRange) (h : s.pc.toNat ≤ 4094) :
    State.PcInRange { s with pc := s.pc + 2#16 } :=
  ⟨by change (s.pc + 2#16).toNat ≤ 0x10FE; rw [pc_add_two_toNat h]; omega, hs.2⟩

theorem State.reset_pcInRange : State.reset.PcInRange := ⟨by decide, by decide⟩

/-! ## Memory in canonical form -/

theorem State.MemCanonical.checkRange {s effect : State} (hs : s.MemCanonical) (count : Nat) (he : effect.MemCanonical) :
    (s.checkRange count effect).MemCanonical := by
  obtain ⟨-, h⟩ | ⟨-, h⟩ := s.checkRange_cases count effect
  · rw [h]; exact he
  · rw [h]; exact hs

theorem State.MemCanonical.of_exec {i : Instr} {s t : State} (hs : s.MemCanonical) (h : exec i s = .next t) :
    t.MemCanonical := by
  cases i with
  | ldBcd | storeRegs => cases h; exact hs.checkRange _ (State.wf_writeBytes _ _ hs)
  | _ =>
    unfold State.MemCanonical
    rw [field_eq_of_exec State.mem h rfl]; exact hs

theorem State.MemCanonical.loadProgram {s : State} (hs : s.MemCanonical) (bytes : List Byte) :
    (s.loadProgram bytes).MemCanonical := by
  unfold State.loadProgram
  split
  · exact State.wf_writeBytes _ _ hs
  · exact hs

/-! ## The statements -/

/-- Settles O11: the trace is empty and TONE is 0. -/
theorem resetToneAlternates : Obligations.ResetToneAlternates := rfl

/-- Settles O10: only a tick emits tone events, and it emits those of the case table. -/
theorem stepKeepsToneAlternating : Obligations.StepKeepsToneAlternating := fun _ _ hs h =>
  step_keeps State.ToneAlternates (fun _ _ hs => hs) (fun _ _ hs => hs)
    (fetchFault := fun _ hs _ _ => hs.of_append (es := [.fault _]) rfl rfl)
    (instr := fun s _ _ hs _ _ h => State.ToneAlternates.of_exec (s := { s with pc := s.pc + 2#16 }) hs h)
    (unknown := fun _ _ hs _ _ => hs.of_append (es := [.warnUnknownOpcode _ _]) rfl rfl)
    (tick := fun s hs => hs.of_append s.tick_trace (by rw [toneAfter_tickEvents, State.tick_tone]))
    (init := fun s font => by rw [State.init_eq]; exact resetToneAlternates)
    (load := fun s bytes hs => by rw [State.loadProgram_eq]; exact hs)
    (start := fun _ hs => hs) (key := fun _ _ _ hs => hs) (read := fun _ hs => hs)
    (shut := fun _ hs => hs) hs h

/-- Settles O24: RUN is Running and the trace is empty. -/
theorem resetHasNoFatal : Obligations.ResetHasNoFatal := rfl

/-- Settles O23: only a running Executor raises a fatal condition, and it is halted from then on. -/
theorem stepKeepsOneFatal : Obligations.StepKeepsOneFatal := fun _ _ hs h =>
  step_keeps State.OneFatal (fun _ _ hs => hs) (fun _ _ hs => hs)
    (fetchFault := fun _ hs hr _ => hs.raise hr _)
    (instr := fun s _ _ hs hr _ h => State.OneFatal.of_exec (s := { s with pc := s.pc + 2#16 }) hs hr h)
    (unknown := fun s _ hs _ _ => State.OneFatal.warnUnknown (s := { s with pc := s.pc + 2#16 }) hs _)
    (tick := fun _ hs => hs.tick)
    (init := fun s font => by rw [State.init_eq]; exact resetHasNoFatal)
    (load := fun s bytes hs => by rw [State.loadProgram_eq]; exact hs)
    (start := fun _ hs => hs) (key := fun _ _ _ hs => hs) (read := fun _ hs => hs)
    (shut := fun _ hs => hs.shutdown) hs h

/-- Settles O27: PC is 0x200 and every stack entry 0. -/
theorem resetPcInRange : Obligations.ResetPcInRange := State.reset_pcInRange

/-- Settles O26: an instruction is fetched at 0..4094 or not at all, and no other action moves PC but an Init. -/
theorem stepKeepsPcInRange : Obligations.StepKeepsPcInRange := fun _ _ hs h =>
  step_keeps State.PcInRange (fun _ _ hs => hs) (fun _ _ hs => hs)
    (fetchFault := fun _ hs _ _ => hs)
    (instr := fun s _ _ hs _ hp h => by
      have hpc := pc_add_two_toNat hp
      exact (hs.fetched hp).of_exec (by change 2 ≤ (s.pc + 2#16).toNat; omega)
        (by change (s.pc + 2#16).toNat ≤ 0x1000; omega) h)
    (unknown := fun _ _ hs _ hp => hs.fetched hp)
    (tick := fun s hs => by rw [State.tick_eq]; exact hs)
    (init := fun s font => by rw [State.init_eq]; exact State.reset_pcInRange)
    (load := fun s bytes hs => by rw [State.loadProgram_eq]; exact hs)
    (start := fun _ hs => hs) (key := fun _ _ _ hs => hs) (read := fun _ hs => hs)
    (shut := fun _ hs => hs) hs h

/-- Settles O53: memory lists nothing. -/
theorem resetMemoryCanonical : Obligations.ResetMemoryCanonical := Memory.wf_nil

/-- Settles O52: every write of memory is a run of byte writes, which keep the form. -/
theorem stepKeepsMemoryCanonical : Obligations.StepKeepsMemoryCanonical := fun _ _ hs h =>
  step_keeps State.MemCanonical (fun _ _ hs => hs) (fun _ _ hs => hs)
    (fetchFault := fun _ hs _ _ => hs)
    (instr := fun s _ _ hs _ _ h => State.MemCanonical.of_exec (s := { s with pc := s.pc + 2#16 }) hs h)
    (unknown := fun _ _ hs _ _ => hs)
    (tick := fun s hs => by rw [State.tick_eq]; exact hs)
    (init := fun s font => State.wf_writeBytes _ _ Memory.wf_nil)
    (load := fun s bytes hs => hs.loadProgram bytes)
    (start := fun _ hs => hs) (key := fun _ _ _ hs => hs) (read := fun _ hs => hs)
    (shut := fun _ hs => hs) hs h

end Sys2Proof.Machine
end

section
/-! SUPPORT. The remaining register, index and key instructions (spec/41_alu.md R151 to R154, spec/42_index_memory.md R171,
spec/44_timers_keys.md R200 to R205, spec/40_flow.md R129): what each does to the state, and the statements on them settled. -/

namespace Sys2Proof.Machine

/-! ## Flags and shifts (R151, R153, R171) -/

theorem flagByte_toNat (c : Bool) : (flagByte c).toNat = c.toNat := by cases c <;> rfl

theorem lowBitFlag_toNat (a : Byte) : (lowBitFlag a).toNat = a.toNat % 2 := by
  rw [lowBitFlag, flagByte_toNat, BitVec.getLsbD, Nat.toNat_testBit, Nat.pow_zero, Nat.div_one]

theorem highBitFlag_toNat (a : Byte) : (highBitFlag a).toNat = a.toNat / 128 := by
  have := a.isLt
  rw [highBitFlag, flagByte_toNat, BitVec.getLsbD, Nat.toNat_testBit]; omega

theorem shiftRight_one_toNat (a : Byte) : (a >>> 1).toNat = a.toNat / 2 := by
  rw [BitVec.toNat_ushiftRight, Nat.shiftRight_eq_div_pow, Nat.pow_one]

theorem shiftLeft_one_toNat (a : Byte) : (a <<< 1).toNat = a.toNat * 2 % 256 := by
  rw [BitVec.toNat_shiftLeft, Nat.shiftLeft_eq, Nat.pow_one]

theorem indexFlag_eq (i : Word) (a : Byte) : indexFlag i a = if 0xFFF < i.toNat + a.toNat then 1#8 else 0#8 :=
  flagByte_decide _

theorem index_add_toNat (i : Word) (b : Byte) : (i + zextByte b).toNat = (i.toNat + b.toNat) % 65536 := by
  rw [BitVec.toNat_add, zextByte_toNat]

/-! ## What each instruction does -/

theorem exec_shr (x y : Nibble) (s : State) :
    exec (.shr x y) s = .next (s.setResultFlag x (s.getV x >>> 1) (lowBitFlag (s.getV x))) := rfl

theorem exec_subn (x y : Nibble) (s : State) : exec (.subn x y) s =
    .next (s.setResultFlag x (s.getV y - s.getV x) (greaterFlag (s.getV y) (s.getV x))) := rfl

theorem exec_shl (x y : Nibble) (s : State) :
    exec (.shl x y) s = .next (s.setResultFlag x (s.getV x <<< 1) (highBitFlag (s.getV x))) := rfl

theorem exec_rnd (x : Nibble) (nn : Byte) (s : State) :
    exec (.rnd x nn) s = .next (s.countDraw.setV x (Config.randByte s.draws &&& nn)) := rfl

theorem exec_addI (x : Nibble) (s : State) : exec (.addI x) s =
    .next ((s.setI (s.i + zextByte (s.getV x))).setV vf (indexFlag s.i (s.getV x))) := rfl

theorem exec_skp (x : Nibble) (s : State) :
    exec (.skp x) s = .next (s.skipIf (s.keyDown (keyIndex (s.getV x)))) := rfl

theorem exec_sknp (x : Nibble) (s : State) :
    exec (.sknp x) s = .next (s.skipIf (!s.keyDown (keyIndex (s.getV x)))) := rfl

theorem exec_ldVxDt (x : Nibble) (s : State) : exec (.ldVxDt x) s = .next (s.setV x s.dt) := rfl

theorem exec_ldDtVx (x : Nibble) (s : State) : exec (.ldDtVx x) s = .next (s.setDt (s.getV x)) := rfl

theorem exec_ldStVx (x : Nibble) (s : State) : exec (.ldStVx x) s = .next (s.setSt (s.getV x)) := rfl

/-- The key a register selects is the one numbered by its low nibble (decision D8). -/
theorem keyIndex_eq {k : Nibble} {b : Byte} (h : k.toNat = b.toNat % 16) : keyIndex b = k :=
  BitVec.eq_of_toNat_eq ((keyIndex_toNat b).trans h.symm)

/-- A key wait with no key pressed goes back to its own address (R205(b)). -/
theorem exec_ldVxKey_of_noKey {s : State} (x : Nibble) (h : ∀ k, s.keyDown k = false) :
    exec (.ldVxKey x) s = .next (s.setPc (s.pc - 2#16)) := by
  simp only [exec, execLdVxKey, State.pressedKeys_eq_nil.2 h]

/-- A key wait with keys pressed stores the index of one of them (R205(c)). -/
theorem exec_ldVxKey_of_keyDown {s : State} (x : Nibble) (h : ∃ k, s.keyDown k = true) :
    ∃ k, s.keyDown k = true ∧ exec (.ldVxKey x) s = .next (s.countDraw.setV x (zextKey k)) := by
  obtain ⟨j, hj⟩ := h
  cases hp : s.pressedKeys with
  | nil => exact absurd hj (by simp [State.pressedKeys_eq_nil.1 hp j])
  | cons k rest =>
    refine ⟨chooseKey s.draws k rest, State.mem_pressedKeys.1 (hp ▸ chooseKey_mem s.draws k rest), ?_⟩
    simp only [exec, execLdVxKey, hp]

@[simp] theorem zextKey_toNat (k : Nibble) : (zextKey k).toNat = k.toNat := BitVec.toNat_setWidth_of_le (by decide)

/-! ## The statements -/

/-- Settles O41: the difference and its strict comparison are a result with its flag. -/
theorem subnSetsStrictFlag : Obligations.SubnSetsStrictFlag := by
  refine ⟨rowDecodes_subn, fun x y s => ⟨_, exec_subn x y s, fun hx => ?_, ?_, s.setResultFlag_frame x _ _⟩⟩
  · rw [s.getV_setResultFlag_self _ _ hx, byte_sub_toNat]
  · exact (s.getV_vf_setResultFlag x _ _).trans (greaterFlag_eq _ _)

/-- Settles O42: both shifts are a result with its flag, the bit that leaves. -/
theorem shiftsMoveTheOutgoingBit : Obligations.ShiftsMoveTheOutgoingBit := by
  refine ⟨⟨rowDecodes_shr, fun x y s => ⟨_, exec_shr x y s, fun hx => ?_, ?_, s.setResultFlag_frame x _ _⟩⟩,
    ⟨rowDecodes_shl, fun x y s => ⟨_, exec_shl x y s, fun hx => ?_, ?_, s.setResultFlag_frame x _ _⟩⟩⟩
  · rw [s.getV_setResultFlag_self _ _ hx, shiftRight_one_toNat]
  · exact (congrArg BitVec.toNat (s.getV_vf_setResultFlag x _ _)).trans (lowBitFlag_toNat _)
  · rw [s.getV_setResultFlag_self _ _ hx, shiftLeft_one_toNat]
  · exact (congrArg BitVec.toNat (s.getV_vf_setResultFlag x _ _)).trans (highBitFlag_toNat _)

/-- Settles O43: a write of Vx with the draw counted; a bit of the masked byte is a bit of the mask. -/
theorem randomByteIsMasked : Obligations.RandomByteIsMasked := by
  refine ⟨rowDecodes_rnd, fun x nn s => ⟨_, exec_rnd x nn s, State.getV_setV_self _ x _, fun n hn => ?_,
    fun k hk => State.getV_setV_of_ne _ _ hk, fun _ => rfl, rfl, rfl⟩⟩
  rw [State.getV_setV_self, BitVec.getLsbD_and, Bool.and_eq_true] at hn
  exact hn.2

/-- Settles O46: a write of I, then of VF. -/
theorem indexAddSetsOverflow : Obligations.IndexAddSetsOverflow :=
  ⟨rowDecodes_addI, fun x s => ⟨_, exec_addI x s, index_add_toNat s.i _,
    (State.getV_setV_self _ vf _).trans (indexFlag_eq _ _), fun _ hk => State.getV_setV_of_ne _ _ hk, fun _ => rfl, rfl⟩⟩

/-- Settles O35: both instructions are skips, on the selected key being down and on its being up. -/
theorem skipsOnKeys : Obligations.SkipsOnKeys := by
  refine ⟨⟨rowDecodes_skp, fun x k s hk => exec_skip (exec_skp x s) ?_ ?_⟩,
    ⟨rowDecodes_sknp, fun x k s hk => exec_skip (exec_sknp x s) ?_ ?_⟩⟩ <;> rw [keyIndex_eq hk]
  · exact id
  · exact id
  · exact fun h => by rw [h]; rfl
  · exact fun h => by rw [h]; rfl

/-- Settles O57: a write of Vx, of DT, of ST. -/
theorem timerRegisterMoves : Obligations.TimerRegisterMoves :=
  ⟨⟨rowDecodes_ldVxDt, fun x s => ⟨_, exec_ldVxDt x s, s.getV_setV_self x _, s.setV_frame x _⟩⟩,
    ⟨rowDecodes_ldDtVx, fun x s => ⟨_, exec_ldDtVx x s, rfl, fun _ => rfl, rfl⟩⟩,
    ⟨rowDecodes_ldStVx, fun x s => ⟨_, exec_ldStVx x s, rfl, rfl, rfl, fun _ => rfl, rfl⟩⟩⟩

/-- Settles O58: the two cases are no key pressed and some key pressed. -/
theorem keyWaitTakesAPressedKey : Obligations.KeyWaitTakesAPressedKey := by
  refine ⟨rowDecodes_ldVxKey, fun x s => ⟨fun h => ⟨_, exec_ldVxKey_of_noKey x h, rfl, rfl⟩, fun h => ?_⟩⟩
  obtain ⟨k, hk, he⟩ := exec_ldVxKey_of_keyDown x h
  exact ⟨_, k, he, hk, by rw [State.getV_setV_self, zextKey_toNat], fun _ hj => State.getV_setV_of_ne _ _ hj,
    fun _ => rfl, rfl⟩

/-- Settles O31: the entry the call pushes is the one the return pops. -/
theorem callThenReturnComesBack : Obligations.CallThenReturnComesBack := by
  intro nnn s pc hsp
  obtain ⟨spCall, hspCall, hcall⟩ := exec_call_of_lt nnn hsp
  obtain ⟨spRet, hspRet, hret⟩ := exec_ret_of_succ
    (s := { s with stack := s.stack.set s.sp.val s.pc hsp, sp := spCall, pc := pc }) hsp hspCall
  exact ⟨_, _, hcall, hret, Fin.ext hspRet, Vector.getElem_set_self ..⟩

end Sys2Proof.Machine
end

section
/-! SUPPORT. Memory instructions (spec/42_index_memory.md R173 to R175, spec/20_memory.md R62, R66, R77): runs of bytes at I, the two
cases of the range check, and the statements on them settled. -/

namespace Sys2Proof.Machine

/-! ## Runs of written bytes -/

section Run
variable {s : State} {a : Nat} {bs : List Byte} (hm : s.MemCanonical) (ha : a + bs.length ≤ 4096)
include hm ha

theorem State.readByte_writeBytes_add {j : Nat} (hj : j < bs.length) :
    (s.writeBytes a bs).readByte (a + j) = bs.getD j 0 := by
  rw [State.readByte_writeBytes hm ha, if_pos (by omega), Nat.add_sub_cancel_left]

theorem State.readByte_writeBytes_of_outside {k : Nat} (hk : k < a ∨ a + bs.length ≤ k) :
    (s.writeBytes a bs).readByte k = s.readByte k := by
  rw [State.readByte_writeBytes hm ha, if_neg (by omega)]

end Run

theorem State.writeBytes_restore (s : State) (a : Nat) (bs : List Byte) : { s.writeBytes a bs with mem := s.mem } = s := by
  rw [State.writeBytes_eq]

theorem State.writeBytes_i (s : State) (a : Nat) (bs : List Byte) : (s.writeBytes a bs).i = s.i := by
  rw [State.writeBytes_eq]

theorem State.writeBytes_pc (s : State) (a : Nat) (bs : List Byte) : (s.writeBytes a bs).pc = s.pc := by
  rw [State.writeBytes_eq]

/-! ## The range check of n + 1 bytes at I (R66) -/

theorem State.checkRange_succ_of_le {s : State} {n : Nat} (effect : State) (h : s.i.toNat + n ≤ 4095) :
    s.checkRange (n + 1) effect = effect :=
  State.checkRange_of_inRange effect (inRange_eq_true.2 (.inr (by omega)))

theorem State.checkRange_succ_of_lt {s : State} {n : Nat} (effect : State) (h : 4095 < s.i.toNat + n) :
    s.checkRange (n + 1) effect = s.raise (.memoryOutOfBounds s.i (n + 1)) :=
  State.checkRange_of_outside effect (inRange_eq_false.2 ⟨n.succ_pos, by omega⟩)

/-! ## What each instruction does -/

theorem exec_ldBcd (x : Nibble) (s : State) :
    exec (.ldBcd x) s = .next (s.checkRange 3 (s.writeBytes s.i.toNat (bcdDigits (s.getV x)))) := rfl

theorem exec_storeRegs (x : Nibble) (s : State) :
    exec (.storeRegs x) s = .next (s.checkRange (x.toNat + 1) (s.writeBytes s.i.toNat (s.regsUpTo x))) := rfl

theorem exec_loadRegs (x : Nibble) (s : State) : exec (.loadRegs x) s =
    .next (s.checkRange (x.toNat + 1) (s.setVs 0 (s.readBytes s.i.toNat (x.toNat + 1)))) := rfl

theorem exec_storeRegs_of_le {x : Nibble} {s : State} (h : s.i.toNat + x.toNat ≤ 4095) :
    exec (.storeRegs x) s = .next (s.writeBytes s.i.toNat (s.regsUpTo x)) := by
  rw [exec_storeRegs, State.checkRange_succ_of_le _ h]

theorem exec_loadRegs_of_le {x : Nibble} {s : State} (h : s.i.toNat + x.toNat ≤ 4095) :
    exec (.loadRegs x) s = .next (s.setVs 0 (s.readBytes s.i.toNat (x.toNat + 1))) := by
  rw [exec_loadRegs, State.checkRange_succ_of_le _ h]

/-- After FX55 the bytes from I on are V0 to Vx. -/
theorem State.readByte_storeRegs {x k : Nibble} {s : State} (hm : s.MemCanonical) (h : s.i.toNat + x.toNat ≤ 4095)
    (hk : k.toNat ≤ x.toNat) :
    (s.writeBytes s.i.toNat (s.regsUpTo x)).readByte (s.i.toNat + k.toNat) = s.getV k := by
  have hlen := s.length_regsUpTo x
  rw [State.readByte_writeBytes_add hm (by omega) (by omega), s.getD_regsUpTo x k hk]

/-- After FX65 the registers V0 to Vx are the bytes from I on. -/
theorem State.getV_loadRegs {x k : Nibble} {s : State} (a : Nat) (hk : k.toNat ≤ x.toNat) :
    (s.setVs 0 (s.readBytes a (x.toNat + 1))).getV k = s.readByte (a + k.toNat) := by
  rw [State.getV_setVs, State.length_readBytes, if_pos (by omega), Nat.sub_zero, State.getD_readBytes _ _ _ _ (by omega)]

/-! ## The statements -/

/-- Settles O47: the digits are a run of three bytes at I. -/
theorem bcdStoresDigits : Obligations.BcdStoresDigits := by
  refine ⟨rowDecodes_ldBcd, fun x s => ⟨fun hm h => ?_, fun h => ?_⟩⟩
  · have hlt := (s.getV x).isLt
    have hread {j : Nat} (hj : j < 3) := State.readByte_writeBytes_add (bs := bcdDigits (s.getV x)) hm
      (show s.i.toNat + 3 ≤ 4096 by omega) hj
    rw [exec_ldBcd, State.checkRange_succ_of_le (n := 2) _ h]
    refine ⟨_, rfl, ?_, ?_, ?_, fun a ha => State.readByte_writeBytes_of_outside hm (Nat.succ_le_succ h) ha,
      s.writeBytes_restore _ _⟩
    · exact (congrArg BitVec.toNat (hread (j := 0) (by decide))).trans (Nat.mod_eq_of_lt (by omega))
    · exact (congrArg BitVec.toNat (hread (j := 1) (by decide))).trans (Nat.mod_eq_of_lt (by omega))
    · exact (congrArg BitVec.toNat (hread (j := 2) (by decide))).trans (Nat.mod_eq_of_lt (by omega))
  · rw [exec_ldBcd, State.checkRange_succ_of_lt (n := 2) _ h]; rfl

/-- Settles O48: the registers are a run of x + 1 bytes at I. -/
theorem storeRegistersDumps : Obligations.StoreRegistersDumps := by
  refine ⟨rowDecodes_storeRegs, fun x s => ⟨fun hm h => ?_, fun h => ?_⟩⟩
  · have hlen := s.length_regsUpTo x
    exact ⟨_, exec_storeRegs_of_le h, fun k hk => State.readByte_storeRegs hm h hk,
      fun a ha => State.readByte_writeBytes_of_outside hm (by omega) (by omega), s.writeBytes_restore _ _⟩
  · rw [exec_storeRegs, State.checkRange_succ_of_lt _ h]; rfl

/-- Settles O49: a run of register writes from V0, of the x + 1 bytes at I. -/
theorem loadRegistersFills : Obligations.LoadRegistersFills := by
  refine ⟨rowDecodes_loadRegs, fun x s => ⟨fun h => ?_, fun h => ?_⟩⟩
  · refine ⟨_, exec_loadRegs_of_le h, fun k hk => State.getV_loadRegs _ hk, fun k hk => ?_, fun a => ?_, ?_⟩
    · rw [State.getV_setVs, State.length_readBytes, if_neg (by omega)]
    · rw [State.setVs_eq]; rfl
    · rw [State.setVs_eq]
  · rw [exec_loadRegs, State.checkRange_succ_of_lt _ h]; rfl

/-- Settles O50: the load reads the run the store wrote, I being kept. -/
theorem storeThenLoadRestores : Obligations.StoreThenLoadRestores := by
  intro x s v hm h
  have hi := s.writeBytes_i s.i.toNat (s.regsUpTo x)
  refine ⟨_, _, exec_storeRegs_of_le h, exec_loadRegs_of_le (by rw [hi]; exact h), fun k hk => ?_⟩
  rw [State.getV_loadRegs _ hk, hi]
  exact State.readByte_storeRegs hm h hk

/-- Settles O51: PC and PC + 1 lie in the run the store wrote. -/
theorem storeIsSeenByNextFetch : Obligations.StoreIsSeenByNextFetch := by
  intro x k l s hm h hl hlx hpc
  have hpc' := s.writeBytes_pc s.i.toNat (s.regsUpTo x)
  obtain ⟨hout, -⟩ | ⟨-, hfetch⟩ := State.fetch_cases (s.writeBytes s.i.toNat (s.regsUpTo x))
  · rw [hpc'] at hout; omega
  · have hhigh := State.readByte_storeRegs (k := k) hm h (by omega)
    have hlow := State.readByte_storeRegs (k := l) hm h hlx
    have hword : (s.writeBytes s.i.toNat (s.regsUpTo x)).wordAtPc = wordOfBytes (s.getV k) (s.getV l) := by
      rw [State.wordAtPc, hpc', hpc, Nat.add_assoc, ← hl, hhigh, hlow]
    exact ⟨_, _, exec_storeRegs_of_le h, hword ▸ hfetch, congrArg (· + 2#16) hpc'⟩

end Sys2Proof.Machine
end

section
/-! SUPPORT. The Executor's step and the host's actions (spec/30_encoding.md R98, R101, spec/60_exceptions.md R222, R228, R229, R246,
spec/70_reset_and_hazards.md R260 to R263), and the statements on them settled. -/

namespace Sys2Proof.Machine

/-! ## The Executor's step (R98) -/

/-- A word that decodes is executed as its instruction. -/
theorem execWord_of_decode {op : Word} {i : Instr} (h : decode op = .ok i) (s : State) : execWord op s = exec i s := by
  unfold execWord; rw [h]

/-- Every other word only warns (R101). -/
theorem execWord_of_unknown {op : Word} {e : DecodeError} (h : decode op = .error e) (s : State) :
    execWord op s = .next (s.warnUnknown op) := by
  unfold execWord; rw [h]

section Turn
variable {s : State} (hturn : s.ExecutorsTurn)
include hturn

/-- On its turn a running Executor executes the word at PC, with PC advanced by 2. -/
theorem step_of_running (hr : s.run = .running) (hp : s.pc.toNat ≤ 4094) :
    step s = execWord s.wordAtPc { s with pc := s.pc + 2#16, loadTime := false, agenda := s.agenda.tail } :=
  (step_of_executorsTurn hturn).trans (executorStep_of_running (s := { s with agenda := s.agenda.tail }) hr hp)

theorem step_of_decode (hr : s.run = .running) (hp : s.pc.toNat ≤ 4094) {i : Instr} (h : decode s.wordAtPc = .ok i) :
    step s = exec i { s with pc := s.pc + 2#16, loadTime := false, agenda := s.agenda.tail } :=
  (step_of_running hturn hr hp).trans (execWord_of_decode h _)

theorem step_of_halted {f : FatalName} (hr : s.run = .halted f) : step s = .fault (.executorHalted f) := by
  rw [step_of_executorsTurn hturn]; unfold executorStep; rw [hr]

theorem step_of_stopped (hr : s.run = .stopped) : step s = .fault .executorStopped := by
  rw [step_of_executorsTurn hturn]; unfold executorStep; rw [hr]

end Turn

theorem State.instrAddr_fetched (s : State) (pc : Word) : State.instrAddr { s with pc := pc + 2#16 } = pc :=
  BitVec.add_sub_cancel pc 2#16

theorem step_tick_of_timerOff {s : State} {rest : List Action} (hoff : s.timerOn = false) (h : s.agenda = .tick :: rest) :
    step s = .fault .timerNotRunning := by
  rw [step_of_agenda h]; exact if_neg (by simp [hoff])

/-- With nothing scheduled and the load window closed, a step that puts PC back changes nothing. -/
theorem State.settled_eq {s : State} (hagenda : s.agenda = []) (hload : s.loadTime = false) :
    { s with loadTime := false, agenda := s.agenda.tail } = s := by
  have htail : s.agenda.tail = s.agenda := by rw [hagenda, List.tail_nil]
  rw [htail, ← hload]

/-! ## Shutdown and RUN (R229, R263) -/

/-- The Executor of a machine that does not run has no step, and of the other actions only Init changes its RUN. -/
theorem run_of_perform {a : Action} {s t : State} (hs : s.run ≠ .running) (h : perform a s = .next t) :
    t.run = s.run ∨ ∃ font, a = .init font ∧ t.run = .running := by
  obtain ⟨-, h⟩ | ⟨-, -, rfl⟩ | ⟨font, rfl, rfl⟩ | ⟨bytes, -, -, rfl⟩ | ⟨-, rfl⟩ | ⟨k, b, -, rfl⟩ | ⟨-, rfl⟩ | ⟨-, rfl⟩ :=
    perform_cases h
  · exact absurd (executorStep_cases h).1 hs
  · exact .inl (by rw [State.tick_eq])
  · exact .inr ⟨font, rfl, by rw [State.init_eq]; rfl⟩
  · exact .inl (by rw [State.loadProgram_eq])
  · exact .inl rfl
  · exact .inl rfl
  · exact .inl rfl
  · refine .inl ?_
    change s.run.afterShutdown = s.run
    cases hr : s.run with
    | running => exact absurd hr hs
    | halted f => rfl
    | stopped => rfl

/-! ## Reset, Init and LoadProgram (R41, R260, R261) -/

theorem unlistedByte_of_lt (a : Fin 80) : unlistedByte a.val = defaultFont[a] := by
  unfold unlistedByte
  rw [List.getD_eq_getElem _ _ (by simp)]; rfl

theorem unlistedByte_of_le {a : Nat} (h : 80 ≤ a) : unlistedByte a = 0#8 :=
  List.getD_eq_default _ _ (by simpa using h)

theorem State.readByte_init (s : State) (font : Font) (k : Nat) :
    (s.init font).readByte k = if k < 80 then font.toList.getD k 0 else unlistedByte k := by
  unfold State.init
  rw [State.readByte_writeBytes Memory.wf_nil (by simp [Config.memSize])]
  simp [State.readByte, Memory.read, State.reset]

theorem State.loadProgram_of_fits {s : State} {bytes : List Byte} (h : bytes.length ≤ 3584) :
    s.loadProgram bytes = { s.writeBytes 0x200 bytes with reply := some .loaded } := if_pos (decide_eq_true h)

theorem State.loadProgram_of_tooLarge {s : State} {bytes : List Byte} (h : 3584 < bytes.length) :
    s.loadProgram bytes = { s with reply := some .romTooLarge } :=
  if_neg (by simp [romFits, Config.romMax]; omega)

theorem step_loadProgram {s : State} {bytes : List Byte} {rest : List Action} (hl : s.loadTime = true)
    (h : s.agenda = .loadProgram bytes :: rest) : step s = .next (State.loadProgram { s with agenda := rest } bytes) := by
  rw [step_of_agenda h]; exact if_pos hl

/-! ## The statements -/

/-- Settles O1: memory lists nothing, so it reads as the font; every other item is a field of the reset state. -/
theorem resetIsTheTableOfReset : Obligations.ResetIsTheTableOfReset := by
  refine ⟨fun x => ?_, rfl, rfl, rfl, fun n => ?_, rfl, rfl, unlistedByte_of_lt, fun a h _ => unlistedByte_of_le h,
    Display.pixel_clear, fun k => ?_, rfl, rfl, rfl, rfl⟩
  · exact Vector.getElem_replicate ..
  · exact Vector.getElem_replicate ..
  · exact Vector.getElem_replicate ..

/-- Settles O2: Init writes the 80 bytes of the font into the memory of the reset state. -/
theorem initResetsWithAnyFont : Obligations.InitResetsWithAnyFont := by
  intro s font rest h
  refine ⟨_, step_of_agenda h, fun a => ?_, fun a ha _ => ?_, ?_⟩
  · rw [State.readByte_init, if_pos a.isLt, List.getD_eq_getElem _ _ (by simp)]; rfl
  · rw [State.readByte_init, if_neg (by omega), unlistedByte_of_le ha]
  · rw [State.init_eq]; rfl

/-- Settles O3: the three cases are the load window with a ROM that fits, with one that does not, and the window closed. -/
theorem loadProgramWritesTheRom : Obligations.LoadProgramWritesTheRom := by
  intro s bytes rest h hm
  refine ⟨fun hl hfits => ?_, fun hl hlarge => ?_, fun hl => ?_⟩
  · rw [step_loadProgram hl h, State.loadProgram_of_fits hfits]
    have hlast : 0x200 + bytes.length ≤ 4096 := by omega
    refine ⟨_, rfl, fun j hj => ?_, fun a ha => ?_, rfl, by rw [State.writeBytes_eq]⟩
    · exact (State.readByte_writeBytes_add (s := { s with agenda := rest }) hm hlast hj).trans (List.getD_eq_getElem _ _ hj)
    · exact State.readByte_writeBytes_of_outside (s := { s with agenda := rest }) hm hlast ha
  · rw [step_loadProgram hl h, State.loadProgram_of_tooLarge hlarge]
    exact ⟨_, rfl, rfl, rfl⟩
  · rw [step_of_agenda h]; exact if_neg (by simp [hl])

/-- Settles O4: the cases of RUN are those of `shutdown_cases`; right after, neither agent is enabled. -/
theorem timerSwitchAndShutdown : Obligations.TimerSwitchAndShutdown := by
  refine ⟨fun s rest h => step_of_agenda h, fun s rest h => ⟨_, step_of_agenda h, fun f hr => ?_, fun hr => ?_, fun ht => ?_⟩⟩
  · obtain ⟨g, -, he⟩ | ⟨hnot, -⟩ := State.shutdown_cases { s with agenda := rest }
    · rw [he]; exact ⟨rfl, fun hturn => step_of_halted hturn hr⟩
    · exact absurd hr (hnot f)
  · obtain ⟨g, hg, -⟩ | ⟨-, he⟩ := State.shutdown_cases { s with agenda := rest }
    · exact absurd hg (hr g)
    · rw [he]; exact ⟨rfl, fun hturn => step_of_stopped hturn rfl⟩
  · obtain ⟨tl, htl⟩ := List.head?_eq_some_iff.1 ht
    exact step_tick_of_timerOff rfl htl

/-- Settles O6: the answer is the display, and the action writes nothing else. -/
theorem readDisplayIsASnapshot : Obligations.ReadDisplayIsASnapshot :=
  fun _ _ h => ⟨_, step_of_agenda h, rfl, rfl⟩

/-- Settles O17: fetch, decode, execute. -/
theorem stepRunsTheDecodedInstruction : Obligations.StepRunsTheDecodedInstruction :=
  fun _ _ hturn hr hp _ h => step_of_decode hturn hr hp h

/-- Settles O18: a listed word does not decode, and the address it warns with is PC before the fetch. -/
theorem unknownWordOnlyWarns : Obligations.UnknownWordOnlyWarns := by
  intro s op hturn hr hp rfl hunknown
  rw [step_of_running hturn hr hp]
  refine ⟨_, execWord_of_unknown ((unknownWordsAreTheListed _).2 hunknown) _, rfl, hr, ?_, rfl⟩
  exact congrArg (fun a => s.trace ++ [.warnUnknownOpcode s.wordAtPc a]) (State.instrAddr_fetched s s.pc)

/-- Settles O19: the fault raises, and PC has not moved. -/
theorem fetchFaultKeepsPc : Obligations.FetchFaultKeepsPc := by
  intro s hturn hr hp
  rw [step_of_executorsTurn hturn]
  exact ⟨_, executorStep_of_fetchFault (s := { s with agenda := s.agenda.tail }) hr hp, rfl, rfl, rfl⟩

/-- Settles O20: the Executor's two ways of having no step, and a tick that keeps RUN. -/
theorem haltedExecutorHasNoStep : Obligations.HaltedExecutorHasNoStep :=
  ⟨fun _ _ hturn hr => step_of_halted hturn hr, fun _ hturn hr => step_of_stopped hturn hr,
    fun s f rest hr h hon => ⟨_, step_tick hon h, by rw [State.tick_eq]; exact hr, State.tick_dt_toNat _⟩⟩

/-- Settles O21: an empty agenda is the Executor's turn, which a machine that does not run cannot take. -/
theorem onlyInitRestarts : Obligations.OnlyInitRestarts := by
  intro s t hs h
  obtain ⟨-, h⟩ | ⟨a, rest, hagenda, h⟩ := step_cases h
  · exact absurd (executorStep_cases h).1 hs
  · obtain hrun | ⟨font, rfl, hrun⟩ := run_of_perform (s := { s with agenda := rest }) hs h
    · exact .inl hrun
    · exact .inr ⟨font, rest, hagenda, hrun⟩

/-- Settles O25: an instruction that raises a fatal condition changes no PC, and one that does not transfer control neither. -/
theorem pcAdvancesByTwo : Obligations.PcAdvancesByTwo := by
  intro s t i hturn hr hp hdecode h hi
  rw [step_of_decode hturn hr hp hdecode] at h
  obtain hi | hhalt := hi
  · exact pc_of_exec h hi
  · obtain ⟨hrun, -⟩ | ⟨f, rfl, -⟩ := exec_run_cases h
    · exact absurd (hrun.trans hr) hhalt
    · rfl

/-- Settles O28: the jump sets PC to A, the key wait takes the 2 of the fetch off again. -/
theorem selfJumpAndKeyWaitIdle : Obligations.SelfJumpAndKeyWaitIdle := by
  intro s hagenda hload hr hp
  have hsettled := State.settled_eq hagenda hload
  refine ⟨fun nnn hdecode hnnn => ?_, fun x hdecode hkeys => ?_⟩
  · have hpc : zextAddr nnn = s.pc := BitVec.eq_of_toNat_eq ((zextAddr_toNat nnn).trans hnnn)
    rw [step_of_decode (.inl hagenda) hr hp hdecode]
    change Host.Outcome.next { s with pc := zextAddr nnn, loadTime := false, agenda := s.agenda.tail } = .next s
    rw [hpc, hsettled]
  · have hwait := exec_ldVxKey_of_noKey
      (s := { s with pc := s.pc + 2#16, loadTime := false, agenda := s.agenda.tail }) x hkeys
    rw [step_of_decode (.inl hagenda) hr hp hdecode, hwait]
    change Host.Outcome.next { s with pc := s.pc + 2#16 - 2#16, loadTime := false, agenda := s.agenda.tail } = .next s
    rw [BitVec.add_sub_cancel, hsettled]

end Sys2Proof.Machine
end

section
/-! SUPPORT. The sprite (spec/43_display.md R191, R192): a draw toggles a list of distinct points one after the other, and the
statements on DXYN settled from that. -/

namespace Sys2Proof.Machine

/-! ## Toggling points -/

/-- One point toggled; a point that was set is a hit. -/
def togglePoint (acc : Display × Bool) (p : Fin 64 × Fin 32) : Display × Bool :=
  (Display.setPixel acc.1 p.1 p.2 (!Display.pixel acc.1 p.1 p.2), acc.2 || Display.pixel acc.1 p.1 p.2)

theorem pixel_togglePoint (acc : Display × Bool) (p q : Fin 64 × Fin 32) :
    Display.pixel (togglePoint acc p).1 q.1 q.2 =
      if q = p then !Display.pixel acc.1 q.1 q.2 else Display.pixel acc.1 q.1 q.2 := by
  rw [togglePoint, Display.pixel_setPixel]
  by_cases h : q = p
  · rw [h, if_pos ⟨rfl, rfl⟩, if_pos rfl]
  · rw [if_neg h, if_neg fun hp => h (Prod.ext hp.1 hp.2)]

/-- Points toggled one after the other, each at most once: those in the list are inverted, the others stay. -/
theorem pixel_foldl_togglePoint (ps : List (Fin 64 × Fin 32)) (hps : ps.Nodup) (acc : Display × Bool)
    (q : Fin 64 × Fin 32) : Display.pixel (ps.foldl togglePoint acc).1 q.1 q.2 =
      if q ∈ ps then !Display.pixel acc.1 q.1 q.2 else Display.pixel acc.1 q.1 q.2 := by
  induction ps generalizing acc with
  | nil => rfl
  | cons p ps ih =>
    obtain ⟨hp, hps⟩ := List.nodup_cons.1 hps
    rw [List.foldl_cons, ih hps, pixel_togglePoint]
    by_cases h : q = p
    · simp [h, hp]
    · simp [h]

/-- There is a hit when a point of the list was set: no toggle reaches a point before it is looked at. -/
theorem hit_foldl_togglePoint (ps : List (Fin 64 × Fin 32)) (hps : ps.Nodup) (acc : Display × Bool) :
    (ps.foldl togglePoint acc).2 = true ↔ acc.2 = true ∨ ∃ p ∈ ps, Display.pixel acc.1 p.1 p.2 = true := by
  induction ps generalizing acc with
  | nil => simp
  | cons p ps ih =>
    obtain ⟨hp, hps⟩ := List.nodup_cons.1 hps
    have hrest : (∃ q ∈ ps, Display.pixel (togglePoint acc p).1 q.1 q.2 = true) ↔
        ∃ q ∈ ps, Display.pixel acc.1 q.1 q.2 = true :=
      exists_congr fun q => and_congr_right fun hq => by
        rw [pixel_togglePoint, if_neg fun (h : q = p) => hp (h ▸ hq)]
    rw [List.foldl_cons, ih hps, hrest, List.exists_mem_cons_iff, togglePoint, Bool.or_eq_true, or_assoc]

/-! ## The points of a sprite -/

/-- The points one sprite row toggles, left to right. -/
def rowPoints (x0 y0 : Byte) (row : Nat) (b : Byte) : List (Fin 64 × Fin 32) :=
  ((List.range 8).filter fun col => b.getLsbD (7 - col)).map fun col => (pixelX x0 col, pixelY y0 row)

/-- The points the sprite's rows from number `row` on toggle. -/
def spritePoints (x0 y0 : Byte) (row : Nat) : List Byte → List (Fin 64 × Fin 32)
  | [] => []
  | b :: rest => rowPoints x0 y0 row b ++ spritePoints x0 y0 (row + 1) rest

theorem drawRow_eq_foldl (x0 y0 : Byte) (row : Nat) (b : Byte) (acc : Display × Bool) :
    drawRow x0 y0 row b acc = (rowPoints x0 y0 row b).foldl togglePoint acc := by
  rw [rowPoints, List.foldl_map, List.foldl_filter]; rfl

theorem drawRows_eq_foldl (x0 y0 : Byte) (row : Nat) (sprite : List Byte) (acc : Display × Bool) :
    drawRows x0 y0 row sprite acc = (spritePoints x0 y0 row sprite).foldl togglePoint acc := by
  induction sprite generalizing row acc with
  | nil => rfl
  | cons b rest ih => rw [drawRows, spritePoints, List.foldl_append, ih, drawRow_eq_foldl]

theorem mem_rowPoints {x0 y0 : Byte} {row : Nat} {b : Byte} {p : Fin 64 × Fin 32} : p ∈ rowPoints x0 y0 row b ↔
    ∃ col < 8, b.getLsbD (7 - col) = true ∧ p = (pixelX x0 col, pixelY y0 row) := by
  simp only [rowPoints, List.mem_map, List.mem_filter, List.mem_range, and_assoc, eq_comm]

theorem mem_spritePoints {x0 y0 : Byte} {row : Nat} {sprite : List Byte} {p : Fin 64 × Fin 32} :
    p ∈ spritePoints x0 y0 row sprite ↔
      ∃ j < sprite.length, ∃ col < 8, (sprite.getD j 0).getLsbD (7 - col) = true ∧
        p = (pixelX x0 col, pixelY y0 (row + j)) := by
  induction sprite generalizing row with
  | nil => simp [spritePoints]
  | cons b rest ih =>
    rw [spritePoints, List.mem_append, mem_rowPoints, ih, List.length_cons, Nat.exists_lt_succ_left (n := rest.length)]
    simp only [List.getD_cons_zero, List.getD_cons_succ, Nat.add_zero, Nat.add_assoc, Nat.add_comm 1]

theorem pixelX_val (x0 : Byte) (col : Nat) : (pixelX x0 col).val = (x0.toNat + col) % 64 := rfl

theorem pixelY_val (y0 : Byte) (row : Nat) : (pixelY y0 row).val = (y0.toNat + row) % 32 := rfl

/-- The 8 columns of a row are distinct modulo 64. -/
theorem nodup_rowPoints (x0 y0 : Byte) (row : Nat) (b : Byte) : (rowPoints x0 y0 row b).Nodup := by
  refine (List.nodup_range.filter _).map_on fun c hc d hd h => ?_
  have hval := congrArg (fun p : Fin 64 × Fin 32 => p.1.val) h
  simp only [pixelX_val, List.mem_filter, List.mem_range] at hval hc hd
  omega

/-- The rows of a sprite of at most 32 rows are distinct modulo 32. -/
theorem nodup_spritePoints (x0 y0 : Byte) (row : Nat) (sprite : List Byte) (h : sprite.length ≤ 32) :
    (spritePoints x0 y0 row sprite).Nodup := by
  induction sprite generalizing row with
  | nil => exact List.nodup_nil
  | cons b rest ih =>
    rw [List.length_cons] at h
    refine (nodup_rowPoints x0 y0 row b).append (ih (row + 1) (by omega)) fun p hrow hrest => ?_
    obtain ⟨c, -, -, rfl⟩ := mem_rowPoints.1 hrow
    obtain ⟨j, hj, d, -, -, hp⟩ := mem_spritePoints.1 hrest
    have hval := congrArg (fun p : Fin 64 × Fin 32 => p.2.val) hp
    simp only [pixelY_val] at hval
    omega

/-! ## What DXYN does -/

theorem exec_drw (x y n : Nibble) (s : State) : exec (.drw x y n) s =
    .next (s.checkRange n.toNat (s.drawSprite (s.getV x) (s.getV y) (s.readBytes s.i.toNat n.toNat))) := rfl

theorem exec_drw_of_inside {n : Nibble} {s : State} (x y : Nibble) (h : n.toNat = 0 ∨ s.i.toNat + n.toNat - 1 ≤ 4095) :
    exec (.drw x y n) s = .next (s.drawSprite (s.getV x) (s.getV y) (s.readBytes s.i.toNat n.toNat)) := by
  rw [exec_drw, State.checkRange_of_inRange _ (inRange_eq_true.2 (by omega))]

/-- The points of the sprite DXYN reads. -/
def State.drawnPoints (s : State) (x y n : Nibble) : List (Fin 64 × Fin 32) :=
  spritePoints (s.getV x) (s.getV y) 0 (s.readBytes s.i.toNat n.toNat)

theorem State.mem_drawnPoints {s : State} {x y n : Nibble} {px : Fin 64} {py : Fin 32} :
    (px, py) ∈ s.drawnPoints x y n ↔ s.SpriteCovers x y n px py := by
  rw [State.drawnPoints, mem_spritePoints, State.length_readBytes]
  refine exists_congr fun row => and_congr_right fun hrow => exists_congr fun col => and_congr_right fun _ => ?_
  rw [State.getD_readBytes _ _ _ _ hrow, Nat.zero_add, Prod.ext_iff, Fin.ext_iff, Fin.ext_iff, pixelX_val, pixelY_val]

theorem State.nodup_drawnPoints (s : State) (x y n : Nibble) : (s.drawnPoints x y n).Nodup :=
  nodup_spritePoints _ _ _ _ (by rw [State.length_readBytes]; omega)

theorem State.pixel_drawSprite (s : State) (x y n : Nibble) (px : Fin 64) (py : Fin 32) :
    Display.pixel (s.drawSprite (s.getV x) (s.getV y) (s.readBytes s.i.toNat n.toNat)).disp px py =
      if (px, py) ∈ s.drawnPoints x y n then !Display.pixel s.disp px py else Display.pixel s.disp px py := by
  change Display.pixel (drawRows _ _ 0 _ (s.disp, false)).1 px py = _
  rw [drawRows_eq_foldl]
  exact pixel_foldl_togglePoint _ (s.nodup_drawnPoints x y n) _ (px, py)

/-- VF after the draw: whether one of the sprite's points was set (R191). -/
theorem State.getV_vf_drawSprite (s : State) (x y n : Nibble) :
    (s.drawSprite (s.getV x) (s.getV y) (s.readBytes s.i.toNat n.toNat)).getV vf =
      if ∃ p ∈ s.drawnPoints x y n, Display.pixel s.disp p.1 p.2 = true then 1#8 else 0#8 := by
  rw [State.getV_drawSprite, if_pos rfl, drawRows_eq_foldl, flagByte]
  refine if_congr ((hit_foldl_togglePoint _ (s.nodup_drawnPoints x y n) _).trans ?_) rfl rfl
  exact or_iff_right Bool.false_ne_true

/-- What bytes a run reads depends on memory only. -/
theorem State.readBytes_congr {s t : State} (h : t.mem = s.mem) (a n : Nat) : t.readBytes a n = s.readBytes a n := by
  induction n generalizing a with
  | zero => rfl
  | succ n ih => rw [State.readBytes, State.readBytes, ih, State.readByte, State.readByte, h]

/-! ## The statements -/

/-- Settles O55: the covered pixels are the points the draw toggles, each once. -/
theorem drawTogglesTheSprite : Obligations.DrawTogglesTheSprite := by
  refine ⟨rowDecodes_drw, fun x y n s => ⟨fun h => ?_, fun hpos h => ?_⟩⟩
  · refine ⟨_, exec_drw_of_inside x y h, fun px py => ⟨fun hc => ?_, fun hc => ?_⟩, fun ⟨px, py, hc, hp⟩ => ?_,
      fun hclear => ?_, fun k hk => ?_, fun _ => rfl, rfl⟩
    · rw [State.pixel_drawSprite, if_pos (State.mem_drawnPoints.2 hc)]
    · rw [State.pixel_drawSprite, if_neg (mt State.mem_drawnPoints.1 hc)]
    · exact (s.getV_vf_drawSprite x y n).trans (if_pos ⟨(px, py), State.mem_drawnPoints.2 hc, hp⟩)
    · refine (s.getV_vf_drawSprite x y n).trans (if_neg fun ⟨p, hp, hset⟩ => ?_)
      exact absurd hset (by rw [hclear p.1 p.2 (State.mem_drawnPoints.1 hp)]; exact Bool.false_ne_true)
    · rw [State.getV_drawSprite]; exact if_neg hk
  · rw [exec_drw, State.checkRange_of_outside _ (inRange_eq_false.2 (by omega))]; rfl

/-- Settles O56: the second draw has the operands of the first, so it toggles the same points. -/
theorem drawingTwiceRestores : Obligations.DrawingTwiceRestores := by
  intro x y n s hx hy h
  have hread := State.readBytes_congr (s := s) (t := s.drawSprite (s.getV x) (s.getV y) (s.readBytes s.i.toNat n.toNat)) rfl
  have hgetV {k : Nibble} (hk : k ≠ 0xF#4) :
      (s.drawSprite (s.getV x) (s.getV y) (s.readBytes s.i.toNat n.toNat)).getV k = s.getV k := by
    rw [State.getV_drawSprite]; exact if_neg hk
  refine ⟨_, _, exec_drw_of_inside x y h, exec_drw_of_inside x y h, Display.ext_pixel fun px py => ?_⟩
  have hpoints : State.drawnPoints (s.drawSprite (s.getV x) (s.getV y) (s.readBytes s.i.toNat n.toNat)) x y n =
      s.drawnPoints x y n := by
    rw [State.drawnPoints, hgetV hx, hgetV hy, hread]; rfl
  rw [State.pixel_drawSprite, hpoints, State.pixel_drawSprite]
  split_ifs <;> simp

end Sys2Proof.Machine
end

section
/-! SUPPORT. ST and TONE are not read (spec/10_state.md R33, R38): every operation the instructions share is the same on two
states that differ only there, and the statement settled from this. -/

namespace Sys2Proof.Machine

/-- The state with another ST and TONE. -/
def State.withSound (s : State) (st : Byte) (tone : Bool) : State := { s with st := st, tone := tone }

theorem State.skipIf_withSound (s : State) (st : Byte) (tone c : Bool) :
    (s.withSound st tone).skipIf c = (s.skipIf c).withSound st tone := by
  cases c <;> rfl

theorem State.checkRange_withSound (s effect : State) (st : Byte) (tone : Bool) (count : Nat) :
    (s.withSound st tone).checkRange count (effect.withSound st tone) =
      (s.checkRange count effect).withSound st tone := by
  unfold State.checkRange
  change (if inRange s.i count then _ else _) = _
  split <;> rfl

theorem State.writeByte_withSound (s : State) (st : Byte) (tone : Bool) (a : Nat) (b : Byte) :
    (s.withSound st tone).writeByte a b = (s.writeByte a b).withSound st tone := by
  unfold State.writeByte; split <;> rfl

theorem State.writeBytes_withSound (s : State) (st : Byte) (tone : Bool) (a : Nat) (bs : List Byte) :
    (s.withSound st tone).writeBytes a bs = (s.writeBytes a bs).withSound st tone := by
  induction bs generalizing s a with
  | nil => rfl
  | cons b rest ih => rw [State.writeBytes, State.writeByte_withSound, ih]; rfl

theorem State.setVs_withSound (s : State) (st : Byte) (tone : Bool) (k : Nat) (bs : List Byte) :
    (s.withSound st tone).setVs k bs = (s.setVs k bs).withSound st tone := by
  induction bs generalizing s k with
  | nil => rfl
  | cons b rest ih => exact ih { s with v := s.v.setIfInBounds k b } (k + 1)

/-- With another ST and TONE an instruction does the same, and leaves that TONE; ST it leaves or overwrites. -/
theorem exec_withSound (i : Instr) (s : State) (st : Byte) (tone : Bool) :
    ∃ t st', exec i s = .next t ∧ exec i (s.withSound st tone) = .next (t.withSound st' tone) := by
  cases i with
  | ldStVx x => exact ⟨_, s.getV x, rfl, rfl⟩
  | ret =>
    cases hsp : s.sp.val with
    | zero => exact ⟨_, st, exec_ret_of_empty hsp, exec_ret_of_empty hsp⟩
    | succ n =>
      have hn : n < 16 := by omega
      obtain ⟨sp, hval, he⟩ := exec_ret_of_succ hn hsp
      obtain ⟨sp', hval', he'⟩ := exec_ret_of_succ (s := s.withSound st tone) hn hsp
      obtain rfl : sp' = sp := Fin.ext (hval'.trans hval.symm)
      exact ⟨_, st, he, he'⟩
  | call nnn =>
    by_cases hsp : s.sp.val < 16
    · obtain ⟨sp, hval, he⟩ := exec_call_of_lt nnn hsp
      obtain ⟨sp', hval', he'⟩ := exec_call_of_lt (s := s.withSound st tone) nnn hsp
      obtain rfl : sp' = sp := Fin.ext (hval'.trans hval.symm)
      exact ⟨_, st, he, he'⟩
    · have hfull : s.sp.val = 16 := by omega
      exact ⟨_, st, exec_call_of_full nnn hfull, exec_call_of_full nnn hfull⟩
  | ldVxKey x =>
    have hkeys : (s.withSound st tone).pressedKeys = s.pressedKeys := rfl
    simp only [exec, execLdVxKey, hkeys]
    cases s.pressedKeys with
    | nil => exact ⟨_, st, rfl, rfl⟩
    | cons k rest => exact ⟨_, st, rfl, rfl⟩
  | seImm | sneImm | seReg | sneReg | skp | sknp =>
    exact ⟨_, st, rfl, congrArg Host.Outcome.next (s.skipIf_withSound st tone _)⟩
  | drw x y n =>
    refine ⟨_, st, rfl, ?_⟩
    rw [exec_drw, State.readBytes_congr (t := s.withSound st tone) (s := s) rfl]
    exact congrArg Host.Outcome.next
      (s.checkRange_withSound (s.drawSprite (s.getV x) (s.getV y) (s.readBytes s.i.toNat n.toNat)) st tone _)
  | ldBcd x =>
    refine ⟨_, st, rfl, ?_⟩
    rw [exec_ldBcd, State.writeBytes_withSound]
    exact congrArg Host.Outcome.next (s.checkRange_withSound _ st tone _)
  | storeRegs x =>
    refine ⟨_, st, rfl, ?_⟩
    rw [exec_storeRegs, State.writeBytes_withSound]
    exact congrArg Host.Outcome.next (s.checkRange_withSound _ st tone _)
  | loadRegs x =>
    refine ⟨_, st, rfl, ?_⟩
    rw [exec_loadRegs, State.readBytes_congr (t := s.withSound st tone) (s := s) rfl, State.setVs_withSound]
    exact congrArg Host.Outcome.next (s.checkRange_withSound _ st tone _)
  | cls | jp | jpV0 | ldImm | addImm | ldReg | orReg | andReg | xorReg | addReg | subReg | shr | subn | shl | ldI | rnd
  | ldVxDt | ldDtVx | addI | ldFont => exact ⟨_, st, rfl, rfl⟩

/-! ## The statement -/

/-- Settles O60: the two runs differ in ST and TONE only. -/
theorem soundStateIsNeverRead : Obligations.SoundStateIsNeverRead := by
  intro i s st tone
  obtain ⟨t, st', ht, hu⟩ := exec_withSound i s st tone
  exact ⟨t, t.withSound st' tone, ht, hu, rfl, tone_of_exec ht, rfl⟩

end Sys2Proof.Machine
end
